-- ==== Sys2Proof/Word.lean ====
section
/-! DEFINITION. The word types of the machine (00_scope.md R10: `byte` is 8 bits, `word` is 16 bits, all values unsigned) and
the index of a general register (10_state.md R20: always 0 to 15). -/

namespace Sys2Proof

/-- A byte, 8 bits (R10). -/
abbrev Byte := BitVec 8

/-- A word, 16 bits (R10): an instruction word, `pc`, `I`, a stack entry. -/
abbrev Word := BitVec 16

/-- A 4-bit field of an instruction word (R91). -/
abbrev Nibble := BitVec 4

/-- The 12-bit immediate address field `nnn` (R91, R94). -/
abbrev Imm12 := BitVec 12

/-- The index of a general register, 0 to 15 (R20). -/
abbrev Reg := Fin 16

end Sys2Proof
end

