-- ==== Sys2Proof/Config.lean ====
section
/-! DEFINITION. What is fixed for the machine and is not state: the fixed parameters of 00_scope.md R5, the three open
parameters STACK_DEPTH (R6), FONT (R7) and TICK_CYCLES (R8), and the free bytes of RND (43_load_arith.md R164).

DESIGN CHOICE (log entries 1, 3, 4, 5), safe: the open parameters and the free bytes are opaque constants with no body, so a
theorem about the model holds whatever they are. -/

namespace Sys2Proof

/-- `N` (MEM_SIZE): bytes of memory, addresses 0 to 4095 (R5). -/
abbrev Config.memSize : Nat := 4096

/-- `LOAD_BASE`: where a program image is copied, and the reset value of `pc` (R5). -/
abbrev Config.loadBase : Nat := 512

/-- `FONT_LEN`: bytes of font, from address 0 (R5, FONT_BASE = 0). -/
abbrev Config.fontLen : Nat := 80

/-- `IMAGE_MAX`: the largest image `load` accepts, `N - LOAD_BASE` = 3584 (R5). -/
abbrev Config.imageMax : Nat := 3584

/-- The admissible values of STACK_DEPTH (R6): `unbounded`, or a natural number at least 1, written
`bounded k` for the depth `k + 1`. -/
inductive StackDepth where
  /-- No bound: the source's machine. -/
  | unbounded
  /-- At most `k + 1` entries, the sentinel counted. -/
  | bounded (k : Nat)
  deriving DecidableEq, Repr, Inhabited

/-- STACK_DEPTH (R6, decision D2): open, no body. -/
opaque Config.stackDepth : StackDepth

/-- FONT (R7, decision D9): the 80 bytes that reset copies to addresses 0 to 79; open, no body. -/
opaque Config.font : Fin 80 → Byte

/-- TICK_CYCLES (R8, decision D16): clock cycles of one tick; open, no body. R8: "No rule of this spec reads it", and
nothing in the model does. -/
opaque Config.tickCycles : Nat

/-- The free byte of the `k`-th execution of RND, counted over the life of the engine (R164, R44, decision D10): no body, so
nothing ties one byte to another or to the state. -/
opaque Config.freeByte : Nat → Byte

/-- The default FONT table of 93_implementation_defined.md entry U9 (there marked as general knowledge). The model does not
use it: a claim that depends on font bytes names it by assuming `Config.UsesDefaultFont`. -/
def Config.defaultFont : List Byte :=
  [0xF0, 0x90, 0x90, 0x90, 0xF0, 0x20, 0x60, 0x20, 0x20, 0x70, 0xF0, 0x10, 0xF0, 0x80, 0xF0, 0xF0, 0x10, 0xF0, 0x10, 0xF0] ++
  [0x90, 0x90, 0xF0, 0x10, 0x10, 0xF0, 0x80, 0xF0, 0x10, 0xF0, 0xF0, 0x80, 0xF0, 0x90, 0xF0, 0xF0, 0x10, 0x20, 0x40, 0x40] ++
  [0xF0, 0x90, 0xF0, 0x90, 0xF0, 0xF0, 0x90, 0xF0, 0x10, 0xF0, 0xF0, 0x90, 0xF0, 0x90, 0x90, 0xE0, 0x90, 0xE0, 0x90, 0xE0] ++
  [0xF0, 0x80, 0x80, 0x80, 0xF0, 0xE0, 0x90, 0x90, 0x90, 0xE0, 0xF0, 0x80, 0xF0, 0x80, 0xF0, 0xF0, 0x80, 0xF0, 0x80, 0x80]

/-- FONT is the default table of U9. -/
def Config.UsesDefaultFont : Prop :=
  ∀ a : Fin 80, Config.font a = Config.defaultFont.getD a.val 0

/-- STACK_DEPTH is `n` (R6 counts the sentinel). -/
def Config.UsesStackDepth (n : Nat) : Prop :=
  Config.stackDepth = .bounded (n - 1) ∧ 1 ≤ n

end Sys2Proof
end

