-- ==== Sys2Proof/Machine/State.lean ====
section
/-! DEFINITION. The state of the engine (10_state.md), the reasons a tick can stop, and the state after reset
(70_reset_and_hazards.md R220, R221). State is plain data and holds every item of the state tuple at the head of 10_state.md,
and one counter of the model's own, `draws` (log entry 2). -/

namespace Sys2Proof.Machine

/-- The kinds of tick fault (60_exceptions.md R180, codes 1 to 6). -/
inductive FaultKind where
  /-- The fetched word is illegal; info is the word (R181). -/
  | invalidOpcode
  /-- `pc > 4094`; info is `pc` (R183). -/
  | fetchRange
  /-- The last sprite row lies above address 4095; info is its address (R184). -/
  | spriteRange
  /-- The key number is above 15; info is the key number (R185). -/
  | keyRange
  /-- CALL on a full stack; info is `pc` (R186). -/
  | stackOverflow
  /-- RET on an empty stack; info is `pc` (R187). -/
  | stackUnderflow
  deriving DecidableEq, Repr

/-- The status register (R33). -/
inductive Status where
  /-- The engine may execute. -/
  | running
  /-- The engine has halted on a tick fault (R191, R192). -/
  | faulted (kind : FaultKind) (info : Word)
  deriving DecidableEq, Repr

/-- The framebuffer: 32 rows of 64 pixels, `true` lit (R41). -/
abbrev Framebuffer := Vector (Vector Bool 64) 32

/-- Memory: the cells that differ from what reset leaves, addresses strictly rising (`Memory.wf`). -/
abbrev Memory := List Host.Cell

/-- The state of the engine (10_state.md, the tuple at its head). -/
structure State where
  /-- The general registers V0 to VF (R20). -/
  v : Vector Byte 16
  /-- The index register I (R30). -/
  index : Word
  /-- The program counter (R24). -/
  pc : Word
  /-- The call stack; the top is the last entry (R11, R37). -/
  stack : List Word
  /-- The delay timer DT (R31). -/
  dt : Byte
  /-- The sound timer ST (R32). -/
  st : Byte
  /-- The memory (R40). -/
  mem : Memory
  /-- The framebuffer, `fb[y][x]` (R41). -/
  fb : Framebuffer
  /-- The keypad flags (R42). -/
  keys : Vector Bool 16
  /-- The screen-changed flag (R28). -/
  changed : Bool
  /-- The status register (R33). -/
  status : Status
  /-- How many free bytes RND has drawn: the model's own counter, not the spec's (log entry 2). -/
  draws : Nat
  deriving DecidableEq, Repr

/-- A step that ends without a next state because the machine has stopped. -/
inductive Fault where
  /-- Raised by `tick` (and so by `step`), and by nothing else, when the engine is already halted: the tick returns the
  latched fault again and changes nothing (R120, R192). Safe: no claim about a next state can be proved of it. The tick
  that raises a fault in the first place is a next state, with the fault latched in `status` (R191). -/
  | halted (kind : FaultKind) (info : Word)
  deriving DecidableEq, Repr

/-- A step that ends because the model gives an instruction no meaning. -/
inductive Refusal where
  /-- Raised only by an arm of `exec` whose instruction has no meaning yet; no arm of this model is one. Safe. -/
  | notModelled (mnemonic : String)
  deriving DecidableEq, Repr

/-- The result of a tick (R120): an output, not state (R29). -/
inductive TickResult where
  /-- The tick completed; `beep` is 1 when it took ST from 1 to 0 (R129, R204). -/
  | ok (beep : Bool)
  /-- The tick raised a fault, or the engine was halted already (R120, R191). -/
  | fault (kind : FaultKind) (info : Word)
  deriving DecidableEq, Repr

/-- The result of `load` (R182, R225). -/
inductive LoadResult where
  /-- The image is loaded. -/
  | ok
  /-- The image is longer than the capacity; nothing was changed (R182). -/
  | imageTooLarge (length capacity : Nat)
  deriving DecidableEq, Repr

/-- The framebuffer with every pixel 0 (R41, R170). -/
def blankScreen : Framebuffer := Vector.replicate 32 (Vector.replicate 64 false)

/-- The state after reset (R221). Memory lists nothing: an unlisted address reads as reset leaves it (`resetByte`). The
counter `draws` is the model's own and its value here is a DESIGN CHOICE (log entry 2). -/
def State.reset : State where
  v := Vector.replicate 16 0x00
  index := 0x0000
  pc := 0x0200
  stack := [0x0000]
  dt := 0x00
  st := 0x00
  mem := []
  fb := blankScreen
  keys := Vector.replicate 16 false
  changed := false
  status := .running
  draws := 0

end Sys2Proof.Machine
end

