-- ==== Sys2Proof/Machine/Ops.lean ====
section
/-! DEFINITION. The named operations over the state: one read and one write for each item, the memory, the stack, the free
byte, taking a fault, and the ways an instruction leaves `pc`. Everything the instructions do goes through these. -/

namespace Sys2Proof.Machine

/-! ### Memory (10_state.md R40, 20_memory.md R66) -/

/-- What an address reads as when nothing is listed for it: what reset leaves there (R66, log entry 10). -/
def resetByte (a : Nat) : Byte :=
  if h : a < Config.fontLen then Config.font ⟨a, h⟩ else 0x00

/-- The byte at an address. Every reader checks the range 0 to 4095 before it reads (R12, R67). -/
def Memory.read : Memory → Nat → Byte
  | [], a => resetByte a
  | (b, v) :: rest, a => if a = b then v else Memory.read rest a

/-- The list with the cell at `a` replaced, put in its place, or taken out when `v` is what `a` reads as unlisted. -/
def Memory.insert (a : Nat) (v : Byte) : Memory → Memory
  | [] => if v = resetByte a then [] else [(a, v)]
  | (b, u) :: rest =>
    if a < b then (if v = resetByte a then (b, u) :: rest else (a, v) :: (b, u) :: rest)
    else if a = b then (if v = resetByte a then rest else (a, v) :: rest)
    else (b, u) :: Memory.insert a v rest

/-- `MemWrite(a, 1, v)` (R12). An address outside 0 to 4095 names no byte, and nothing is written (log entry 11). -/
def Memory.write (m : Memory) (a : Nat) (v : Byte) : Memory :=
  if a < Config.memSize then Memory.insert a v m else m

/-- Write bytes at ascending addresses from `base`. -/
def Memory.writeBytes (m : Memory) (base : Nat) : List Byte → Memory
  | [] => m
  | v :: rest => Memory.writeBytes (Memory.write m base v) (base + 1) rest

/-- The canonical form from an address on: addresses rise strictly, lie inside memory, and no cell holds what its address
reads as unlisted. -/
def Memory.wfFrom (lo : Nat) : Memory → Bool
  | [] => true
  | (a, v) :: rest =>
    decide (lo ≤ a) && decide (a < Config.memSize) && (v != resetByte a) && Memory.wfFrom (a + 1) rest

/-- The canonical form of memory. -/
def Memory.wf (m : Memory) : Bool := Memory.wfFrom 0 m

/-- `MemRead(a, 1)` (R12). -/
def State.readMem (s : State) (a : Nat) : Byte := s.mem.read a

/-! ### Registers and single items -/

/-- `V[r]` (R20). -/
def State.readV (s : State) (r : Reg) : Byte := s.v.get r

/-- `V[r] <- b` (R20). -/
def State.setV (s : State) (r : Reg) (b : Byte) : State := { s with v := s.v.set r b }

/-- `I <- w` (R30). -/
def State.setIndex (s : State) (w : Word) : State := { s with index := w }

/-- `pc <- w` (R24). -/
def State.setPc (s : State) (w : Word) : State := { s with pc := w }

/-- `stack <- ws`. -/
def State.setStack (s : State) (ws : List Word) : State := { s with stack := ws }

/-- `DT <- d; ST <- t`. -/
def State.setTimerPair (s : State) (d t : Byte) : State := { s with dt := d, st := t }

/-- `mem <- m`. -/
def State.setMem (s : State) (m : Memory) : State := { s with mem := m }

/-- `fb <- f`. -/
def State.setFb (s : State) (f : Framebuffer) : State := { s with fb := f }

/-- `keys <- k`. -/
def State.setKeys (s : State) (k : Vector Bool 16) : State := { s with keys := k }

/-- `changed <- b` (R28). -/
def State.setChanged (s : State) (b : Bool) : State := { s with changed := b }

/-- `status <- st` (R33). -/
def State.setStatus (s : State) (st : Status) : State := { s with status := st }

/-- Count `n` free bytes drawn. -/
def State.setDraws (s : State) (n : Nat) : State := { s with draws := n }

/-! ### The framebuffer (R41) -/

/-- `fb[y][x]`. -/
def Framebuffer.pixel (f : Framebuffer) (y : Fin 32) (x : Fin 64) : Bool := (f.get y).get x

/-- `fb[y][x] <- b`. -/
def Framebuffer.setPixel (f : Framebuffer) (y : Fin 32) (x : Fin 64) (b : Bool) : Framebuffer :=
  f.set y ((f.get y).set x b)

/-- `fb[y][x]` of a state. -/
def State.pixel (s : State) (y : Fin 32) (x : Fin 64) : Bool := Framebuffer.pixel s.fb y x

/-! ### The keypad (R42) -/

/-- `keys[k]`, where the number names one of the 16 keys. -/
def State.readKey (s : State) (k : Nat) : Option Bool :=
  if h : k < 16 then some (s.keys.get ⟨k, h⟩) else none

/-! ### The free byte of RND (R12 `draw_byte()`, R164) -/

/-- The byte the next `draw_byte()` gives. -/
def State.nextFreeByte (s : State) : Byte := Config.freeByte s.draws

/-- The state after `draw_byte()`: the byte is used up, so the next draw is another one. -/
def State.drawn (s : State) : State := s.setDraws (s.draws + 1)

/-! ### Taking a fault (60_exceptions.md R191) -/

/-- `raise K(info)`: the fault is latched in `status`. Everything else is as it was, `pc` at the faulting instruction among
it; `changed` was cleared by step 1 of the tick (R121, R133). There is no return from a fault (R194): only `hostReset` and a
`load` that succeeds leave the halted state. -/
def State.raise (s : State) (kind : FaultKind) (info : Word) : State := s.setStatus (.faulted kind info)

/-- The code of a fault kind (R180). -/
def faultCode : FaultKind → Nat
  | .invalidOpcode => 1
  | .fetchRange => 2
  | .spriteRange => 3
  | .keyRange => 4
  | .stackOverflow => 5
  | .stackUnderflow => 6

/-- The code of the error of `load` (R180). -/
def imageTooLargeCode : Nat := 7

/-! ### How an instruction leaves `pc` (R25, R124 to R126) -/

/-- `next_pc <- pc +_16 2`, then `pc <- next_pc` (R124, R126). -/
def State.advance (s : State) : State := s.setPc (s.pc + 2)

/-- A skip: `next_pc <- pc +_16 4` when the condition holds, else `pc +_16 2` (R125). The skipped word is not looked at
(R127). -/
def State.skipIf (s : State) (condition : Bool) : State :=
  if condition then s.setPc (s.pc + 4) else s.advance

/-- `next_pc <- t`, then `pc <- next_pc`, with no further advance (R125, R126). -/
def State.jumpTo (s : State) (t : Word) : State := s.setPc t

/-! ### The call stack (R37 to R39) -/

/-- Whether a stack of `len` entries is full at a depth: `len = STACK_DEPTH`, never when unbounded (R143). -/
def depthReached (d : StackDepth) (len : Nat) : Bool :=
  match d with
  | .unbounded => false
  | .bounded k => len == k + 1

/-- Whether a depth admits a stack of `len` entries: `len <= STACK_DEPTH` (R37). -/
def depthAdmits (d : StackDepth) (len : Nat) : Bool :=
  match d with
  | .unbounded => true
  | .bounded k => decide (len ≤ k + 1)

/-- `len(stack) = STACK_DEPTH` (R143). -/
def State.stackFull (s : State) : Bool := depthReached Config.stackDepth s.stack.length

/-- `push(w)`: append at the top (R12). -/
def State.push (s : State) (w : Word) : State := s.setStack (s.stack ++ [w])

/-- The top of the stack, if there is one. -/
def State.top (s : State) : Option Word := s.stack.getLast?

/-- The state after `pop()` (R12). -/
def State.popped (s : State) : State := s.setStack s.stack.dropLast

end Sys2Proof.Machine
end

