-- ==== Sys2Proof/Machine/Flags.lean ====
section
/-! DEFINITION. What plays the part of a flag (10_state.md R27 to R29): the screen-changed flag and VF as DRW leaves them
(44_display.md R174), the timers' countdown and the beep (40_cycle.md R128, R129). There is no condition-code register. -/

namespace Sys2Proof.Machine

/-- `zext_8(chg)`: 0x01 or 0x00 (R171, decision D19). -/
def flagByte (chg : Bool) : Byte := if chg then 0x01 else 0x00

/-- `changed <- chg; V[15] <- zext_8(chg)`: the end of DRW (R171, R174). -/
def State.setDrawFlags (s : State) (chg : Bool) : State := (s.setChanged chg).setV 15 (flagByte chg)

/-- Step 1 of the tick: `changed <- 0` (R121). -/
def State.clearChanged (s : State) : State := s.setChanged false

/-- `if t != 0 then t - 1`: the countdown of either timer (R128, R129). -/
def countDown (t : Byte) : Byte := if t ≠ 0 then t - 1 else t

/-- Steps 5 and 6 of the tick on the timers (R128, R129). -/
def State.stepTimers (s : State) : State := s.setTimerPair (countDown s.dt) (countDown s.st)

/-- Step 6 of the tick, the output: `beep` is 1 when ST is nonzero and its countdown reaches 0 (R129). -/
def beepOf (st : Byte) : Bool := decide (st ≠ 0) && decide (countDown st = 0)

end Sys2Proof.Machine
end

