-- ==== Sys2Proof/Machine/Operands.lean ====
section
/-! DEFINITION. The operand forms (30_encoding.md R94 to R96, 43_load_arith.md R165): the immediates, the address sum of
JP V0, the key number, and the origin, rows and row addresses of a sprite. -/

namespace Sys2Proof.Machine

/-- `zext_16(nnn)`: an absolute byte address, not scaled and not relative (R94). -/
def immAddr (nnn : Imm12) : Word := nnn.setWidth 16

/-- `zext_16(b)` of a byte. -/
def wordOfByte (b : Byte) : Word := b.setWidth 16

/-- `zext_16(nnn) +_16 zext_16(V[0])` (R144): 16 bits, not cut to 12. -/
def State.offsetTarget (s : State) (nnn : Imm12) : Word := immAddr nnn + wordOfByte (s.readV 0)

/-- `x0 <- V[x] mod 64` (R173). -/
def State.originX (s : State) (x : Reg) : Nat := (s.readV x).toNat % 64

/-- `y0 <- V[y] mod 32` (R173). -/
def State.originY (s : State) (y : Reg) : Nat := (s.readV y).toNat % 32

/-- `(x0 + c) mod 64` (R173): a column of the framebuffer. -/
def wrapColumn (x0 c : Nat) : Fin 64 := Fin.ofNat 64 (x0 + c)

/-- `(y0 + r) mod 32` (R173): a row of the framebuffer. -/
def wrapRow (y0 r : Nat) : Fin 32 := Fin.ofNat 32 (y0 + r)

/-- `I + r`, the address of sprite row `r`: a sum of natural numbers (R165 (d), R172). -/
def State.rowAddr (s : State) (r : Nat) : Nat := s.index.toNat + r

/-- The byte of sprite row `r` (R172). -/
def State.spriteByte (s : State) (r : Nat) : Byte := s.readMem (s.rowAddr r)

/-- `I + n - 1`, the address of the last row of an `n`-row sprite, `n` at least 1 (R172). -/
def State.lastRowAddr (s : State) (n : Nibble) : Nat := s.index.toNat + n.toNat - 1

/-- `n >= 1 and I + n - 1 > 4095` (R171, R172). -/
def State.spriteOutOfRange (s : State) (n : Nibble) : Bool :=
  decide (1 ≤ n.toNat) && decide (4095 < s.lastRowAddr n)

/-- `b[7 - c]`: the sprite bit of column offset `c`, most significant bit leftmost (R171, R172). -/
def spriteBit (b : Byte) (c : Nat) : Bool := b.getLsbD (7 - c)

end Sys2Proof.Machine
end

