-- ==== Sys2Proof/Machine/Display.lean ====
section
/-! DEFINITION. Display: CLS and DRW, and the collision detector (44_display.md). -/

namespace Sys2Proof.Machine

/-- CLS: every pixel 0; neither `changed` nor VF is written (R170). The field `u` is ignored (R103). -/
def execCls (_u : Nibble) (s : State) : Host.Outcome State Fault Refusal :=
  .next (s.setFb blankScreen).advance

/-- The body of the inner loop of DRW: XOR one sprite bit into `fb[yy][(x0 + c) mod 64]` and note in the sticky bit whether
the pixel changed value (R171, R174). -/
def drawPixel (b : Byte) (yy : Fin 32) (x0 : Nat) (acc : Framebuffer × Bool) (c : Nat) : Framebuffer × Bool :=
  let xx := wrapColumn x0 c
  let old := Framebuffer.pixel acc.1 yy xx
  let new := Bool.xor old (spriteBit b c)
  (Framebuffer.setPixel acc.1 yy xx new, if new ≠ old then true else acc.2)

/-- One row: the 8 columns, left to right (R171). -/
def drawRow (b : Byte) (yy : Fin 32) (x0 : Nat) (acc : Framebuffer × Bool) : Framebuffer × Bool :=
  (List.range 8).foldl (drawPixel b yy x0) acc

/-- The rows 0 to `n - 1`, top to bottom (R171). -/
def drawRows (s : State) (x0 y0 n : Nat) : Framebuffer × Bool :=
  (List.range n).foldl (fun acc r => drawRow (s.spriteByte r) (wrapRow y0 r) x0 acc) (s.fb, false)

/-- DRW Vx,Vy,n: `SpriteRange(I + n - 1)` before any effect, else draw and report in VF and `changed` (R171 to R175). Both
origin registers are read before VF is written. -/
def execDrw (x y : Reg) (n : Nibble) (s : State) : Host.Outcome State Fault Refusal :=
  .next (if s.spriteOutOfRange n then s.raise .spriteRange (BitVec.ofNat 16 (s.lastRowAddr n))
    else
      let drawn := drawRows s (s.originX x) (s.originY y) n.toNat
      ((s.setFb drawn.1).setDrawFlags drawn.2).advance)

end Sys2Proof.Machine
end

