-- ==== Sys2Proof/Machine/Flow.lean ====
section
/-! DEFINITION. Control transfer: SYS, RET, JP, CALL, JP V0 (41_flow.md). Each meaning is step 3b of the tick together with
step 4, `pc <- next_pc` (40_cycle.md R124, R126); steps 1, 5 and 6 are `tick`'s. -/

namespace Sys2Proof.Machine

/-- SYS nnn: no operation; `nnn` is ignored (R140). -/
def execSys (_nnn : Imm12) (s : State) : Host.Outcome State Fault Refusal :=
  .next s.advance

/-- RET: pop into `pc`, no further advance; `StackUnderflow(pc)` on an empty stack (R141). The field `u` is ignored
(R103). -/
def execRet (_u : Nibble) (s : State) : Host.Outcome State Fault Refusal :=
  .next (match s.top with
    | some target => s.popped.jumpTo target
    | none => s.raise .stackUnderflow s.pc)

/-- JP nnn (R142). -/
def execJp (nnn : Imm12) (s : State) : Host.Outcome State Fault Refusal :=
  .next (s.jumpTo (immAddr nnn))

/-- CALL nnn: push `pc +_16 2`, jump; `StackOverflow(pc)` on a full stack (R143). -/
def execCall (nnn : Imm12) (s : State) : Host.Outcome State Fault Refusal :=
  .next (if s.stackFull then s.raise .stackOverflow s.pc
    else (s.push (s.pc + 2)).jumpTo (immAddr nnn))

/-- JP V0,nnn (R144). -/
def execJpV0 (nnn : Imm12) (s : State) : Host.Outcome State Fault Refusal :=
  .next (s.jumpTo (s.offsetTarget nnn))

end Sys2Proof.Machine
end

