-- ==== Sys2Proof/Syntax.lean ====
section
/-! DEFINITION. The instructions: one constructor per row of spec/opcode_table.json (30_encoding.md R97, R99, R100). The five
rows of the illegal space are constructors too, since spec/ lists no row as another name of a core instruction (log entry 14).
Every bit of a word that is not fixed by its row is a field here, the ignored ones included (R103), so no bit is lost. -/

namespace Sys2Proof

/-- An instruction word, decoded. Field letters are those of R91. -/
inductive Instr where
  /-- CLS, `0?E0` (R170); `u` is the ignored field, bits 11 to 8 (R103). -/
  | cls (u : Nibble)
  /-- RET, `0?EE` (R141); `u` is the ignored field, bits 11 to 8 (R103). -/
  | ret (u : Nibble)
  /-- SYS nnn, `0nnn` (R140); all of `nnn` is ignored. -/
  | sys (nnn : Imm12)
  /-- JP nnn, `1nnn` (R142). -/
  | jp (nnn : Imm12)
  /-- CALL nnn, `2nnn` (R143). -/
  | call (nnn : Imm12)
  /-- SE Vx,kk, `3xkk` (R150). -/
  | se (x : Reg) (kk : Byte)
  /-- SNE Vx,kk, `4xkk` (R151). -/
  | sne (x : Reg) (kk : Byte)
  /-- LD Vx,kk, `6xkk` (R160). -/
  | ldImm (x : Reg) (kk : Byte)
  /-- ADD Vx,kk, `7xkk` (R161). -/
  | addImm (x : Reg) (kk : Byte)
  /-- LD Vx,Vy, `8xy0` (R162). -/
  | ldReg (x y : Reg)
  /-- LD I,nnn, `Annn` (R163). -/
  | ldI (nnn : Imm12)
  /-- JP V0,nnn, `Bnnn` (R144). -/
  | jpV0 (nnn : Imm12)
  /-- RND Vx,kk, `Cxkk` (R164). -/
  | rnd (x : Reg) (kk : Byte)
  /-- DRW Vx,Vy,n, `Dxyn` (R171). -/
  | drw (x y : Reg) (n : Nibble)
  /-- SKP Vx, `Ex9E` (R152). -/
  | skp (x : Reg)
  /-- SKNP Vx, `ExA1` (R153). -/
  | sknp (x : Reg)
  /-- An illegal word `5???` (R100, R181). -/
  | illegal5 (u : Imm12)
  /-- An illegal word `8xyN` with `N` not 0 (R100, R181). -/
  | illegal8 (u : Imm12)
  /-- An illegal word `9???` (R100, R181). -/
  | illegal9 (u : Imm12)
  /-- An illegal word `Exkk` with `kk` neither 0x9E nor 0xA1 (R100, R181). -/
  | illegalE (u : Imm12)
  /-- An illegal word `F???` (R100, R181). -/
  | illegalF (u : Imm12)
  deriving DecidableEq, Repr

/-- Whether the instruction is one of the 16 of R97 (and not of the illegal space of R100). -/
def Instr.isLegal : Instr → Bool
  | .cls _ => true
  | .ret _ => true
  | .sys _ => true
  | .jp _ => true
  | .call _ => true
  | .se _ _ => true
  | .sne _ _ => true
  | .ldImm _ _ => true
  | .addImm _ _ => true
  | .ldReg _ _ => true
  | .ldI _ => true
  | .jpV0 _ => true
  | .rnd _ _ => true
  | .drw _ _ _ => true
  | .skp _ => true
  | .sknp _ => true
  | .illegal5 _ => false
  | .illegal8 _ => false
  | .illegal9 _ => false
  | .illegalE _ => false
  | .illegalF _ => false

end Sys2Proof
end

