-- ==== Sys2Proof/WellFormed.lean ====
section
/-! DEFINITION. Which terms of `Instr` are instructions of the machine: a row of the table applies only when every earlier
row has failed to match (30_encoding.md R98, R99), so a SYS word is neither CLS nor RET, an illegal `8xyN` is not LD Vx,Vy,
and an illegal `Exkk` is neither SKP nor SKNP. Every other field takes every value its width admits. -/

namespace Sys2Proof

/-- The low byte of a 12-bit field: `w[7:0]` of a word whose low 12 bits it is (R91). -/
def Imm12.lowByte (u : Imm12) : Byte := u.extractLsb' 0 8

/-- The low nibble of a 12-bit field: `w[3:0]` (R91). -/
def Imm12.lowNibble (u : Imm12) : Nibble := u.extractLsb' 0 4

/-- The checks of R98 on an instruction's fields. -/
def Instr.wf : Instr → Bool
  | .sys nnn => Imm12.lowByte nnn != 0xE0 && Imm12.lowByte nnn != 0xEE
  | .illegal8 u => Imm12.lowNibble u != 0x0
  | .illegalE u => Imm12.lowByte u != 0x9E && Imm12.lowByte u != 0xA1
  | .cls _ => true
  | .ret _ => true
  | .jp _ => true
  | .call _ => true
  | .se _ _ => true
  | .sne _ _ => true
  | .ldImm _ _ => true
  | .addImm _ _ => true
  | .ldReg _ _ => true
  | .ldI _ => true
  | .jpV0 _ => true
  | .rnd _ _ => true
  | .drw _ _ _ => true
  | .skp _ => true
  | .sknp _ => true
  | .illegal5 _ => true
  | .illegal9 _ => true
  | .illegalF _ => true

end Sys2Proof
end

