-- ==== Sys2Proof/Decode.lean ====
section
/-! DEFINITION. The decoder (30_encoding.md R93), total on words and on lists of bytes; the encoder, written from the match
column of R97 and R100; and the opcode table of R97 with its first-match-wins rule (R98) as data, against which the decode
tree is checked. -/

namespace Sys2Proof

/-! ### Fields (R91) -/

/-- `op = w[15:12]`. -/
def opField (w : Word) : Nibble := w.extractLsb' 12 4

/-- `x = w[11:8]`, as a register index (R96). -/
def xField (w : Word) : Reg := (w.extractLsb' 8 4).toFin

/-- `y = w[7:4]`, as a register index (R96). -/
def yField (w : Word) : Reg := (w.extractLsb' 4 4).toFin

/-- `n = w[3:0]`. -/
def nField (w : Word) : Nibble := w.extractLsb' 0 4

/-- `kk = w[7:0]`. -/
def kkField (w : Word) : Byte := w.extractLsb' 0 8

/-- `nnn = w[11:0]`. -/
def nnnField (w : Word) : Imm12 := w.extractLsb' 0 12

/-- Bits 11 to 8 as bits: the field `u` of CLS and RET, which takes no part in decoding (R103). -/
def uField (w : Word) : Nibble := w.extractLsb' 8 4

/-! ### The decode tree (R93) -/

/-- Family 0: dispatch on the low byte (R93, R103). -/
def decodeFamily0 (w : Word) : Instr :=
  if kkField w = 0xE0 then .cls (uField w)
  else if kkField w = 0xEE then .ret (uField w)
  else .sys (nnnField w)

/-- Family 8: dispatch on the low nibble (R93). -/
def decodeFamily8 (w : Word) : Instr :=
  if nField w = 0x0 then .ldReg (xField w) (yField w) else .illegal8 (nnnField w)

/-- Family E: dispatch on the low byte (R93). -/
def decodeFamilyE (w : Word) : Instr :=
  if kkField w = 0x9E then .skp (xField w)
  else if kkField w = 0xA1 then .sknp (xField w)
  else .illegalE (nnnField w)

/-- The decode tree of R93: every word gives exactly one instruction. The last arm is `op = 0xF`, the one value left. -/
def decode (w : Word) : Instr :=
  match (opField w).toNat with
  | 0x0 => decodeFamily0 w
  | 0x1 => .jp (nnnField w)
  | 0x2 => .call (nnnField w)
  | 0x3 => .se (xField w) (kkField w)
  | 0x4 => .sne (xField w) (kkField w)
  | 0x5 => .illegal5 (nnnField w)
  | 0x6 => .ldImm (xField w) (kkField w)
  | 0x7 => .addImm (xField w) (kkField w)
  | 0x8 => decodeFamily8 w
  | 0x9 => .illegal9 (nnnField w)
  | 0xA => .ldI (nnnField w)
  | 0xB => .jpV0 (nnnField w)
  | 0xC => .rnd (xField w) (kkField w)
  | 0xD => .drw (xField w) (yField w) (nField w)
  | 0xE => decodeFamilyE w
  | _ => .illegalF (nnnField w)

/-- Why a list of bytes holds no instruction. -/
inductive DecodeError where
  /-- Fewer than the two bytes every instruction has (R90). -/
  | truncated
  deriving DecidableEq, Repr

/-- The instruction at the head of a list of bytes and the bytes after it: the first byte is the high byte of the word
(20_memory.md R60), every instruction is two bytes (R90). -/
def decodeBytes : List Byte → Except DecodeError (Instr × List Byte)
  | hi :: lo :: rest => .ok (decode (hi ++ lo), rest)
  | [_] => .error .truncated
  | [] => .error .truncated

/-! ### The encoder (the match values of R97 and R100) -/

/-- A register index as a 4-bit field. -/
def regBits (r : Reg) : Nibble := BitVec.ofFin r

/-- The word of an instruction. -/
def encode : Instr → Word
  | .cls u => 0x0#4 ++ u ++ 0xE0#8
  | .ret u => 0x0#4 ++ u ++ 0xEE#8
  | .sys nnn => 0x0#4 ++ nnn
  | .jp nnn => 0x1#4 ++ nnn
  | .call nnn => 0x2#4 ++ nnn
  | .se x kk => 0x3#4 ++ regBits x ++ kk
  | .sne x kk => 0x4#4 ++ regBits x ++ kk
  | .ldImm x kk => 0x6#4 ++ regBits x ++ kk
  | .addImm x kk => 0x7#4 ++ regBits x ++ kk
  | .ldReg x y => 0x8#4 ++ regBits x ++ regBits y ++ 0x0#4
  | .ldI nnn => 0xA#4 ++ nnn
  | .jpV0 nnn => 0xB#4 ++ nnn
  | .rnd x kk => 0xC#4 ++ regBits x ++ kk
  | .drw x y n => 0xD#4 ++ regBits x ++ regBits y ++ n
  | .skp x => 0xE#4 ++ regBits x ++ 0x9E#8
  | .sknp x => 0xE#4 ++ regBits x ++ 0xA1#8
  | .illegal5 u => 0x5#4 ++ u
  | .illegal8 u => 0x8#4 ++ u
  | .illegal9 u => 0x9#4 ++ u
  | .illegalE u => 0xE#4 ++ u
  | .illegalF u => 0xF#4 ++ u

/-- The high byte of a word, `w[15:8]`, which stands at the lower address (R60). -/
def highByte (w : Word) : Byte := w.extractLsb' 8 8

/-- The low byte of a word, `w[7:0]`. -/
def lowByte (w : Word) : Byte := w.extractLsb' 0 8

/-- The two bytes of a word as memory holds them, lower address first (R60). -/
def wordBytes (w : Word) : List Byte := [highByte w, lowByte w]

/-- The bytes of an instruction, lower address first. -/
def encodeBytes (i : Instr) : List Byte := wordBytes (encode i)

/-! ### The table's own numbering -/

/-- The word of which the table gives `nbits` bits `w`: the bits above them are 0. -/
def tableWord (nbits w : Nat) : Word := BitVec.ofNat 16 (w % 2 ^ nbits)

/-- The instruction the decoder reads from the table's `nbits` bits `w`, laid out as memory holds them. No instruction is
longer than 16 bits (R90), so a longer one is refused. -/
def decodeTableWord (nbits w : Nat) : Option Instr :=
  if nbits ≤ 16 then
    match decodeBytes (wordBytes (tableWord nbits w)) with
    | .ok (i, _) => some i
    | .error _ => none
  else none

/-! ### The opcode table (R97, R100), first match wins (R98) -/

/-- The rows of the table, in its order (R97 rows 1 to 16, then the illegal rows of R100). -/
inductive OpcodeRow where
  | cls | ret | sys | jp | call | se | sne | ldImm | addImm | ldReg | ldI | jpV0 | rnd | drw | skp | sknp
  | illegal5 | illegal8 | illegal9 | illegalE | illegalF
  deriving DecidableEq, Repr

/-- The column `match` of R97 and R100. -/
def rowMatch : OpcodeRow → Word
  | .cls => 0x00E0#16
  | .ret => 0x00EE#16
  | .sys => 0x0000#16
  | .jp => 0x1000#16
  | .call => 0x2000#16
  | .se => 0x3000#16
  | .sne => 0x4000#16
  | .ldImm => 0x6000#16
  | .addImm => 0x7000#16
  | .ldReg => 0x8000#16
  | .ldI => 0xA000#16
  | .jpV0 => 0xB000#16
  | .rnd => 0xC000#16
  | .drw => 0xD000#16
  | .skp => 0xE09E#16
  | .sknp => 0xE0A1#16
  | .illegal5 => 0x5000#16
  | .illegal8 => 0x8000#16
  | .illegal9 => 0x9000#16
  | .illegalE => 0xE000#16
  | .illegalF => 0xF000#16

/-- The column `mask` of R97 and R100. -/
def rowMask : OpcodeRow → Word
  | .cls => 0xF0FF#16
  | .ret => 0xF0FF#16
  | .sys => 0xF000#16
  | .jp => 0xF000#16
  | .call => 0xF000#16
  | .se => 0xF000#16
  | .sne => 0xF000#16
  | .ldImm => 0xF000#16
  | .addImm => 0xF000#16
  | .ldReg => 0xF00F#16
  | .ldI => 0xF000#16
  | .jpV0 => 0xF000#16
  | .rnd => 0xF000#16
  | .drw => 0xF000#16
  | .skp => 0xF0FF#16
  | .sknp => 0xF0FF#16
  | .illegal5 => 0xF000#16
  | .illegal8 => 0xF000#16
  | .illegal9 => 0xF000#16
  | .illegalE => 0xF000#16
  | .illegalF => 0xF000#16

/-- The rows in the order of the table (R97, R99). -/
def opcodeRows : List OpcodeRow :=
  [.cls, .ret, .sys, .jp, .call, .se, .sne, .ldImm, .addImm, .ldReg, .ldI, .jpV0, .rnd, .drw, .skp, .sknp] ++
  [.illegal5, .illegal8, .illegal9, .illegalE, .illegalF]

/-- A word matches a row when `w & mask = match` (R97). -/
def rowMatches (w : Word) (r : OpcodeRow) : Bool := w &&& rowMask r == rowMatch r

/-- The first row that matches (R98). -/
def firstRow (w : Word) : Option OpcodeRow := opcodeRows.find? (rowMatches w)

/-- The row of the table an instruction stands for. -/
def rowOf : Instr → OpcodeRow
  | .cls _ => .cls
  | .ret _ => .ret
  | .sys _ => .sys
  | .jp _ => .jp
  | .call _ => .call
  | .se _ _ => .se
  | .sne _ _ => .sne
  | .ldImm _ _ => .ldImm
  | .addImm _ _ => .addImm
  | .ldReg _ _ => .ldReg
  | .ldI _ => .ldI
  | .jpV0 _ => .jpV0
  | .rnd _ _ => .rnd
  | .drw _ _ _ => .drw
  | .skp _ => .skp
  | .sknp _ => .sknp
  | .illegal5 _ => .illegal5
  | .illegal8 _ => .illegal8
  | .illegal9 _ => .illegal9
  | .illegalE _ => .illegalE
  | .illegalF _ => .illegalF

end Sys2Proof
end

