-- ==== Sys2Proof/Machine/Illegal.lean ====
section
/-! DEFINITION. The illegal space (30_encoding.md R100): `InvalidOpcode(w)` with the whole word (60_exceptions.md R181). Each
meaning takes the fault; nothing but `status` changes, `pc` stays at the word (R191). -/

namespace Sys2Proof.Machine

/-- `raise InvalidOpcode(w)` (R123, R181). -/
def State.raiseInvalidOpcode (s : State) (w : Word) : State := s.raise .invalidOpcode w

/-- A word `5???` (R181). -/
def execIllegal5 (u : Imm12) (s : State) : Host.Outcome State Fault Refusal :=
  .next (s.raiseInvalidOpcode (encode (.illegal5 u)))

/-- A word `8xyN`, `N` not 0 (R181). -/
def execIllegal8 (u : Imm12) (s : State) : Host.Outcome State Fault Refusal :=
  .next (s.raiseInvalidOpcode (encode (.illegal8 u)))

/-- A word `9???` (R181). -/
def execIllegal9 (u : Imm12) (s : State) : Host.Outcome State Fault Refusal :=
  .next (s.raiseInvalidOpcode (encode (.illegal9 u)))

/-- A word `Exkk`, `kk` neither 0x9E nor 0xA1 (R181). -/
def execIllegalE (u : Imm12) (s : State) : Host.Outcome State Fault Refusal :=
  .next (s.raiseInvalidOpcode (encode (.illegalE u)))

/-- A word `F???` (R181). -/
def execIllegalF (u : Imm12) (s : State) : Host.Outcome State Fault Refusal :=
  .next (s.raiseInvalidOpcode (encode (.illegalF u)))

end Sys2Proof.Machine
end

