-- ==== Sys2Proof/Machine/LoadArith.lean ====
section
/-! DEFINITION. Loads, add and random: LD Vx,kk; ADD Vx,kk; LD Vx,Vy; LD I,nnn; RND Vx,kk (43_load_arith.md). -/

namespace Sys2Proof.Machine

/-- LD Vx,kk (R160). -/
def execLdImm (x : Reg) (kk : Byte) (s : State) : Host.Outcome State Fault Refusal :=
  .next (s.setV x kk).advance

/-- ADD Vx,kk: modulo 256, VF is not written (R161). -/
def execAddImm (x : Reg) (kk : Byte) (s : State) : Host.Outcome State Fault Refusal :=
  .next (s.setV x (s.readV x + kk)).advance

/-- LD Vx,Vy (R162). -/
def execLdReg (x y : Reg) (s : State) : Host.Outcome State Fault Refusal :=
  .next (s.setV x (s.readV y)).advance

/-- LD I,nnn (R163). -/
def execLdI (nnn : Imm12) (s : State) : Host.Outcome State Fault Refusal :=
  .next (s.setIndex (immAddr nnn)).advance

/-- RND Vx,kk: a free byte AND `kk` (R164, log entry 1). -/
def execRnd (x : Reg) (kk : Byte) (s : State) : Host.Outcome State Fault Refusal :=
  .next (s.drawn.setV x (s.nextFreeByte &&& kk)).advance

end Sys2Proof.Machine
end

