-- ==== Sys2Proof/Machine/Skip.lean ====
section
/-! DEFINITION. Conditional skips: SE, SNE, SKP, SKNP (42_skip.md). -/

namespace Sys2Proof.Machine

/-- SE Vx,kk: skip if `V[x] = kk` (R150). -/
def execSe (x : Reg) (kk : Byte) (s : State) : Host.Outcome State Fault Refusal :=
  .next (s.skipIf (s.readV x == kk))

/-- SNE Vx,kk: skip if `V[x] != kk` (R151). -/
def execSne (x : Reg) (kk : Byte) (s : State) : Host.Outcome State Fault Refusal :=
  .next (s.skipIf (s.readV x != kk))

/-- The common part of SKP and SKNP: with `k = V[x]`, `KeyRange(k)` when `k > 15`, else skip if `keys[k]` is what is
wanted (R152, R153). The register's value is not cut to 4 bits. -/
def State.skipOnKey (s : State) (x : Reg) (wanted : Bool) : State :=
  match s.readKey (s.readV x).toNat with
  | some down => s.skipIf (down == wanted)
  | none => s.raise .keyRange (wordOfByte (s.readV x))

/-- SKP Vx: skip if the key is pressed (R152). -/
def execSkp (x : Reg) (s : State) : Host.Outcome State Fault Refusal :=
  .next (s.skipOnKey x true)

/-- SKNP Vx: skip if the key is not pressed (R153). -/
def execSknp (x : Reg) (s : State) : Host.Outcome State Fault Refusal :=
  .next (s.skipOnKey x false)

end Sys2Proof.Machine
end

