-- ==== Sys2Proof/Machine/Dispatch.lean ====
section
/-! DEFINITION. Step 3b of the tick: the meaning of each instruction (40_cycle.md R124, R133). -/

namespace Sys2Proof.Machine

def exec (i : Instr) (s : State) : Host.Outcome State Fault Refusal :=
  match i with
  | .cls u => Sys2Proof.Machine.execCls u s
  | .ret u => Sys2Proof.Machine.execRet u s
  | .sys nnn => Sys2Proof.Machine.execSys nnn s
  | .jp nnn => Sys2Proof.Machine.execJp nnn s
  | .call nnn => Sys2Proof.Machine.execCall nnn s
  | .se x kk => Sys2Proof.Machine.execSe x kk s
  | .sne x kk => Sys2Proof.Machine.execSne x kk s
  | .ldImm x kk => Sys2Proof.Machine.execLdImm x kk s
  | .addImm x kk => Sys2Proof.Machine.execAddImm x kk s
  | .ldReg x y => Sys2Proof.Machine.execLdReg x y s
  | .ldI nnn => Sys2Proof.Machine.execLdI nnn s
  | .jpV0 nnn => Sys2Proof.Machine.execJpV0 nnn s
  | .rnd x kk => Sys2Proof.Machine.execRnd x kk s
  | .drw x y n => Sys2Proof.Machine.execDrw x y n s
  | .skp x => Sys2Proof.Machine.execSkp x s
  | .sknp x => Sys2Proof.Machine.execSknp x s
  | .illegal5 u => Sys2Proof.Machine.execIllegal5 u s
  | .illegal8 u => Sys2Proof.Machine.execIllegal8 u s
  | .illegal9 u => Sys2Proof.Machine.execIllegal9 u s
  | .illegalE u => Sys2Proof.Machine.execIllegalE u s
  | .illegalF u => Sys2Proof.Machine.execIllegalF u s

end Sys2Proof.Machine
end

