-- ==== Sys2Proof/Machine/Tick.lean ====
section
/-! DEFINITION. The tick: guard, clear `changed`, fetch, decode, execute, timers, and the result (40_cycle.md R120 to
R133). -/

namespace Sys2Proof.Machine

/-- Whether both bytes of the instruction lie in memory: not `pc > N - 2` (R122). -/
def State.fetchInRange (s : State) : Bool := decide (s.pc.toNat ≤ 4094)

/-- `w <- MemRead(pc, 1) ++ MemRead(pc + 1, 1)`: the byte at the lower address is the high byte (R60, R122). -/
def State.fetchWord (s : State) : Word := s.readMem s.pc.toNat ++ s.readMem (s.pc.toNat + 1)

/-- What follows the execution of an instruction: steps 5 and 6 on the timers, unless it raised a fault, which ends the tick
(R128 to R130). -/
def State.finishTick (s : State) : State :=
  match s.status with
  | .running => s.stepTimers
  | .faulted _ _ => s

/-- Execute an instruction and finish the tick. -/
def runInstr (i : Instr) (s : State) : Host.Outcome State Fault Refusal :=
  match exec i s with
  | .next t => .next t.finishTick
  | .fault r => .fault r
  | .refused r => .refused r

/-- One tick (R133). A tick of a halted engine changes nothing and returns the latched fault (R120): there is no next state
(log entry 7). A tick that raises a fault has the state with the fault latched as its next state (R191, log entry 6). -/
def tick (s : State) : Host.Outcome State Fault Refusal :=
  match s.status with
  | .faulted kind info => .fault (.halted kind info)
  | .running =>
    if s.fetchInRange then runInstr (decode s.fetchWord) s.clearChanged
    else .next (s.clearChanged.raise .fetchRange s.pc)

/-- The result of the tick that starts in `s` (R120): `Fault(kind, info)` when the engine is halted or the tick raises a
fault, else `Ok(beep)` (R129, R204). It is an output and no part of the state (R29, log entry 9). `none` stands for a tick
with neither, which never happens here, as every arm of `exec` answers a next state. -/
def tickResult (s : State) : Option TickResult :=
  match tick s with
  | .fault (.halted kind info) => some (.fault kind info)
  | .next t =>
    match t.status with
    | .faulted kind info => some (.fault kind info)
    | .running => some (.ok (beepOf s.st))
  | .refused _ => none

end Sys2Proof.Machine
end

