-- ==== Sys2Proof/Machine/Step.lean ====
section
/-! DEFINITION. One step of the machine is one tick (40_cycle.md R120, R132). And the state with an instruction placed where
the next step fetches it. -/

namespace Sys2Proof.Machine

/-- One step: one tick. -/
def step (s : State) : Host.Outcome State Fault Refusal := tick s

/-- The state made ready to fetch: running, and, where `pc` is past the last address a fetch can start at, with `pc` at the
entry point. A running state whose `pc` is in range is left as it is. -/
def State.readyToFetch (s : State) : State :=
  (if s.fetchInRange then s else s.setPc 0x0200).setStatus .running

/-- The state with the table's `nbits` bits `w` stored, as memory holds them, where the next step fetches (log entry 16). -/
def State.withFetchWord (s : State) (nbits w : Nat) : State :=
  let r := s.readyToFetch
  r.setMem (Memory.writeBytes r.mem r.pc.toNat (wordBytes (tableWord nbits w)))

end Sys2Proof.Machine
end

