-- ==== Sys2Proof/Machine/HostOps.lean ====
section
/-! DEFINITION. The host's operations other than `tick` (60_exceptions.md R200), each atomic and between ticks (20_memory.md
R75). -/

namespace Sys2Proof.Machine

/-- `reset()` (70_reset_and_hazards.md R220): every item at its reset value, in any state, halted or not. The random source
is not touched (R222): the count of bytes drawn goes on. -/
def hostReset (s : State) : State := State.reset.setDraws s.draws

/-- `load(image)` (R225): an image longer than 3584 bytes changes nothing; else reset, then the image at 512. -/
def load (image : List Byte) (s : State) : State × LoadResult :=
  if Config.imageMax < image.length then (s, .imageTooLarge image.length Config.imageMax)
  else
    let r := hostReset s
    (r.setMem (Memory.writeBytes r.mem Config.loadBase image), .ok)

/-- `set_keys(k)`: all 16 flags at once (R201). -/
def setKeypad (k : Vector Bool 16) (s : State) : State := s.setKeys k

/-- `set_timers(dt, st)`: either or both, `none` leaves the timer as it is (R197). It gives no beep. -/
def setTimers (dt st : Option Byte) (s : State) : State :=
  s.setTimerPair (dt.getD s.dt) (st.getD s.st)

/-- `read_framebuffer()` (R202). -/
def readFramebuffer (s : State) : Framebuffer := s.fb

/-- `read_changed()`: it does not clear the flag (R203). -/
def readChanged (s : State) : Bool := s.changed

end Sys2Proof.Machine
end

