-- ==== Sys2Proof/Safety.lean ====
section
/-! DEFINITION. What claims about runs are stated in: halted states and the good end of a run (70_reset_and_hazards.md
R232), the invariant of the engine's state, what a latched fault says of the state it was raised in, and the "unchanged"
relations that frames are written with. Nothing here is used by the machine. -/

namespace Sys2Proof.Machine

/-- The engine has halted on a fault (R192): the bad end of a run (R232). -/
def State.Halted (s : State) : Prop := ∃ kind info, s.status = .faulted kind info

/-- The good end of a run (R232): running, at `pc = a`, with the word `JP a` there. -/
def State.AtGoodEnd (s : State) : Prop :=
  s.status = .running ∧ s.pc.toNat ≤ 4094 ∧ s.readMem s.pc.toNat ++ s.readMem (s.pc.toNat + 1) = 0x1000 + s.pc

/-- `k` ticks from `s`, each of which has a next state, end in `t`. -/
def RunsTo (k : Nat) (s t : State) : Prop := Host.Core.run Sys2Proof.core k s = .next t

/-- The invariant of the engine's state: what no tick and no host operation breaks. -/
structure State.Inv (s : State) : Prop where
  /-- Memory is in its canonical form, so every address lies in 0 to 4095 (R40). -/
  memory : s.mem.wf = true
  /-- Bits 15 to 12 of I are 0 (R30). -/
  index : s.index.toNat ≤ 0x0FFF
  /-- `pc <= 4350`, so `pc` never wraps at 16 bits (R26 (b)). -/
  pc : s.pc.toNat ≤ 4350
  /-- A stack entry is a pushed `a + 2` with `a <= 4094`, or the sentinel (R26 (b), R38). -/
  entries : ∀ w ∈ s.stack, w.toNat ≤ 4096
  /-- `len <= STACK_DEPTH` (R37). -/
  depth : depthAdmits Config.stackDepth s.stack.length = true

/-- What a latched fault records of the state it was raised in (R180 to R188), told from the fields that the fault has left
as they were (R191). -/
def State.FaultExplained (s : State) : FaultKind → Word → Prop
  | .invalidOpcode, w =>
    s.pc.toNat ≤ 4094 ∧ w = s.readMem s.pc.toNat ++ s.readMem (s.pc.toNat + 1) ∧ (decode w).isLegal = false
  | .fetchRange, w => w = s.pc ∧ 4094 < s.pc.toNat
  | .spriteRange, a => ∃ n : Nat, 1 ≤ n ∧ n ≤ 15 ∧ a.toNat = s.index.toNat + n - 1 ∧ 4095 < a.toNat
  | .keyRange, k => ∃ r, k = wordOfByte (s.readV r) ∧ 15 < k.toNat
  | .stackOverflow, w => w = s.pc ∧ depthReached Config.stackDepth s.stack.length = true
  | .stackUnderflow, w => w = s.pc ∧ s.stack = []

/-! ### Frames -/

/-- Every byte of memory reads as before. -/
def SameMemory (s t : State) : Prop := ∀ a, t.readMem a = s.readMem a

/-- Every general register but those listed holds what it held. -/
def SameRegsBut (rs : List Reg) (s t : State) : Prop := ∀ r, r ∉ rs → t.readV r = s.readV r

/-- Every pixel is as before. -/
def SameScreen (s t : State) : Prop := ∀ y x, t.pixel y x = s.pixel y x

/-- The timers and the keypad are as before: no instruction writes them (R31, R32, R42). -/
def SameTimersAndKeys (s t : State) : Prop := t.dt = s.dt ∧ t.st = s.st ∧ t.keys = s.keys

end Sys2Proof.Machine
end

