-- ==== Sys2Proof/Certificates/Slice0/Obligations.lean ====
section
/-! DEFINITION. The statements for the provers, stated from the spec's numbered rules and grouped as the spec is: encoding, the
tick, the whole machine, the instructions, their frames, the host's operations. Each docstring names the rules it rests on; "D<n>" is
a decision of the spec's own (92_eei_decisions.md), "log entry <n>" a choice of the model's own. -/

open Sys2Proof Sys2Proof.Machine

/-! ### Helpers the statements are written with -/

/-- The illegal words, by the match and mask columns of 30_encoding.md R100. -/
def Sys2Proof.Claims.IllegalWord (w : Word) : Prop :=
  w &&& 0xF000#16 = 0x5000#16 ∨
  (w &&& 0xF000#16 = 0x8000#16 ∧ w &&& 0xF00F#16 ≠ 0x8000#16) ∨
  w &&& 0xF000#16 = 0x9000#16 ∨
  (w &&& 0xF000#16 = 0xE000#16 ∧ w &&& 0xF0FF#16 ≠ 0xE09E#16 ∧ w &&& 0xF0FF#16 ≠ 0xE0A1#16) ∨
  w &&& 0xF000#16 = 0xF000#16

/-- The word at `pc`: `mem[pc] ++ mem[pc+1]` (20_memory.md R60). -/
def Sys2Proof.Claims.wordAtPc (s : State) : Word := s.readMem s.pc.toNat ++ s.readMem (s.pc.toNat + 1)

/-- `if t != 0 then t - 1` (40_cycle.md R128, R129). -/
def Sys2Proof.Claims.oneLess (t : Byte) : Byte := if t ≠ 0 then t - 1 else t

/-- The key of a number is pressed; `false` for a number that names no key. -/
def Sys2Proof.Claims.keyDown (s : State) (k : Nat) : Bool := s.keys.toList.getD k false

/-- `pc` after a tick that completed, row by row of the table of 10_state.md R25. An illegal word has no row: its tick does
not complete. -/
def Sys2Proof.Claims.pcAfter (s : State) : Instr → Word
  | .cls _ => s.pc + 2
  | .ret _ => s.stack.getLastD 0
  | .sys _ => s.pc + 2
  | .jp nnn => nnn.setWidth 16
  | .call nnn => nnn.setWidth 16
  | .se x kk => if s.readV x = kk then s.pc + 4 else s.pc + 2
  | .sne x kk => if s.readV x ≠ kk then s.pc + 4 else s.pc + 2
  | .ldImm _ _ => s.pc + 2
  | .addImm _ _ => s.pc + 2
  | .ldReg _ _ => s.pc + 2
  | .ldI _ => s.pc + 2
  | .jpV0 nnn => nnn.setWidth 16 + (s.readV 0).setWidth 16
  | .rnd _ _ => s.pc + 2
  | .drw _ _ _ => s.pc + 2
  | .skp x => if Sys2Proof.Claims.keyDown s (s.readV x).toNat = true then s.pc + 4 else s.pc + 2
  | .sknp x => if Sys2Proof.Claims.keyDown s (s.readV x).toNat = false then s.pc + 4 else s.pc + 2
  | .illegal5 _ => s.pc
  | .illegal8 _ => s.pc
  | .illegal9 _ => s.pc
  | .illegalE _ => s.pc
  | .illegalF _ => s.pc

open Sys2Proof.Claims

/-! ### Encoding (30_encoding.md) -/

/-- Decode and encode agree: the word of a well-formed instruction decodes to it, and so do its two bytes, whatever bytes
follow (R90, R93, R97, R100). -/
def Obligations.DecodeOfEncodeGivesTheInstruction : Prop :=
  ∀ (i : Instr) (rest : List Byte), i.wf = true →
    decode (encode i) = i ∧ decodeBytes (encodeBytes i ++ rest) = .ok (i, rest)

/-- Every one of the 65536 words has exactly one reading and no bit of it is lost: what it decodes to is well formed and
encodes to it (R93, R98). -/
def Obligations.EncodeOfDecodeGivesTheWord : Prop :=
  ∀ w : Word, (decode w).wf = true ∧ encode (decode w) = w

/-- R98: the decode tree of R93 and the table of R97 and R100, first match wins, select the same row for every word. -/
def Obligations.DecodeTreeFollowsTheTable : Prop :=
  ∀ w : Word, firstRow w = some (rowOf (decode w))

/-- R98: of rows 1 to 16 only CLS and SYS, and RET and SYS, overlap; all others are disjoint. -/
def Obligations.RowsOverlapOnlyInFamilyZero : Prop :=
  ∀ (w : Word) (a b : OpcodeRow), a ∈ opcodeRows.take 16 → b ∈ opcodeRows.take 16 →
    rowMatches w a = true → rowMatches w b = true →
    a = b ∨ (a = .sys ∧ (b = .cls ∨ b = .ret)) ∨ (b = .sys ∧ (a = .cls ∨ a = .ret))

/-- R100: a word is illegal, and the tick that fetches it raises `InvalidOpcode(w)` as its result, in exactly the five
cases. -/
def Obligations.ExactlyTheIllegalWordsRaiseInvalidOpcode : Prop :=
  ∀ w : Word, ((decode w).isLegal = false ↔ IllegalWord w) ∧
    ∀ s : State, s.status = .running → s.pc.toNat ≤ 4094 → wordAtPc s = w →
      (tickResult s = some (.fault .invalidOpcode w) ↔ IllegalWord w)

/-- Words of the decode table 95_test_vectors.md B1, one or more of each family. -/
def Obligations.SampleWordsDecodeAsTabled : Prop :=
  decode 0x00E0 = .cls 0x0 ∧ decode 0x0FE0 = .cls 0xF ∧ decode 0x0FEE = .ret 0xF ∧ decode 0x0123 = .sys 0x123 ∧
  decode 0x1ABC = .jp 0xABC ∧ decode 0x2300 = .call 0x300 ∧ decode 0x3010 = .se 0 0x10 ∧ decode 0x4F01 = .sne 15 0x01 ∧
  decode 0x6A2F = .ldImm 10 0x2F ∧ decode 0x7120 = .addImm 1 0x20 ∧ decode 0x8AF0 = .ldReg 10 15 ∧
  decode 0xA20E = .ldI 0x20E ∧ decode 0xB20C = .jpV0 0x20C ∧ decode 0xC30F = .rnd 3 0x0F ∧
  decode 0xD012 = .drw 0 1 2 ∧ decode 0xE09E = .skp 0 ∧ decode 0xE7A1 = .sknp 7 ∧ decode 0x5120 = .illegal5 0x120 ∧
  decode 0x8121 = .illegal8 0x121 ∧ decode 0x9120 = .illegal9 0x120 ∧ decode 0xE0A0 = .illegalE 0x0A0 ∧
  decode 0xF165 = .illegalF 0x165

/-! ### The tick (40_cycle.md) -/

/-- A step runs the decoded instruction: running, with both bytes in memory, and these decoding to `i`, the step is `exec` of
`i` on the state with `changed` cleared (R121), then one countdown of each timer unless the instruction raised a fault
(R128 to R130). -/
def Obligations.StepRunsTheDecodedInstruction : Prop :=
  ∀ (s : State) (i : Instr), s.status = .running → s.pc.toNat ≤ 4094 →
    decodeBytes [s.readMem s.pc.toNat, s.readMem (s.pc.toNat + 1)] = .ok (i, []) →
    step s = match exec i { s with changed := false } with
      | .next t => .next (if t.status = .running then { t with dt := oneLess t.dt, st := oneLess t.st } else t)
      | .fault r => .fault r
      | .refused r => .refused r

/-- A fetch that would reach past address 4095 raises `FetchRange(pc)`, and no read is made (R122, R183; rests on D4, and on
D11 and D12 for the state it leaves). -/
def Obligations.FetchPastMemoryRaisesFetchRange : Prop :=
  ∀ s : State, s.status = .running → 4094 < s.pc.toNat →
    step s = .next { s with changed := false, status := .faulted .fetchRange s.pc } ∧
    tickResult s = some (.fault .fetchRange s.pc)

/-- A halted engine executes nothing: every tick returns the latched fault (R120, R192; rests on D11, and on log entry 7 for
the form: the step has no next state). -/
def Obligations.HaltedEngineReturnsTheLatchedFault : Prop :=
  ∀ (s : State) (kind : FaultKind) (info : Word), s.status = .faulted kind info →
    step s = .fault (.halted kind info) ∧ tickResult s = some (.fault kind info)

/-- Faults are precise: a tick that raises one, in whatever instruction, leaves every item but `status` and `changed` as it
was before the tick, and returns the fault (R191, R193; rests on D12). -/
def Obligations.TickFaultsArePrecise : Prop :=
  ∀ (s t : State) (kind : FaultKind) (info : Word), step s = .next t → t.status = .faulted kind info →
    t = { s with changed := false, status := .faulted kind info } ∧ tickResult s = some (.fault kind info)

/-- R128: the delay timer, in every tick that does not fault. -/
def Obligations.DelayTimerStepsOncePerTick : Prop :=
  ∀ s t : State, step s = .next t → t.status = .running → t.dt = if s.dt ≠ 0 then s.dt - 1 else s.dt

/-- R129: the sound timer, and the beep exactly in the tick that finds ST = 1. -/
def Obligations.SoundTimerStepsAndBeepsAtOne : Prop :=
  ∀ s t : State, step s = .next t → t.status = .running →
    t.st = (if s.st ≠ 0 then s.st - 1 else s.st) ∧ tickResult s = some (.ok (decide (s.st = 1)))

/-- R131: the timers count ticks. After `k` ticks none of which faulted, whatever the instructions were, each timer has gone
down by `k`, stopping at 0. -/
def Obligations.TimersCountTicks : Prop :=
  ∀ (k : Nat) (s t : State), RunsTo k s t → t.status = .running →
    t.dt.toNat = s.dt.toNat - k ∧ t.st.toNat = s.st.toNat - k

/-- R28: after a tick `changed` is 1 exactly when that tick executed a DRW that flipped at least one pixel. -/
def Obligations.ChangedMeansADrawFlippedAPixel : Prop :=
  ∀ s t : State, step s = .next t →
    (t.changed = true ↔ (∃ x y n, decode (wordAtPc s) = .drw x y n) ∧ t.status = .running ∧
      ∃ y x, t.pixel y x ≠ s.pixel y x)

/-- The table of R25: `pc` after a tick that completed, and after one that faulted. -/
def Obligations.PcAfterEveryTick : Prop :=
  ∀ s t : State, step s = .next t →
    (t.status = .running → t.pc = pcAfter s (decode (wordAtPc s))) ∧ (t.status ≠ .running → t.pc = s.pc)

/-! ### The whole machine -/

/-- No tick writes memory or the keypad (R65, R42). -/
def Obligations.NoTickWritesMemoryOrKeypad : Prop :=
  ∀ s t : State, step s = .next t → SameMemory s t ∧ t.mem = s.mem ∧ t.keys = s.keys

/-- Who writes what (the tables of R22 and R65, R30, R39; for `draws`, log entry 2): an item that a tick changed is one that
the tick's instruction writes. -/
def Obligations.OnlyTheNamedInstructionsWrite : Prop :=
  ∀ (s t : State) (i : Instr), step s = .next t → i = decode (wordAtPc s) →
    (t.index ≠ s.index → ∃ nnn, i = .ldI nnn) ∧
    (t.stack ≠ s.stack → (∃ u, i = .ret u) ∨ ∃ nnn, i = .call nnn) ∧
    (t.fb ≠ s.fb → (∃ u, i = .cls u) ∨ ∃ x y n, i = .drw x y n) ∧
    (t.draws ≠ s.draws → ∃ x kk, i = .rnd x kk) ∧
    ∀ r, t.readV r ≠ s.readV r →
      (∃ kk, i = .ldImm r kk) ∨ (∃ kk, i = .addImm r kk) ∨ (∃ y, i = .ldReg r y) ∨ (∃ kk, i = .rnd r kk) ∨
      (r = 15 ∧ ∃ x y n, i = .drw x y n)

/-- The invariant of the state (memory canonical, `I` at most 0x0FFF, `pc` at most 4350, stack entries at most 4096, the
stack within STACK_DEPTH) is kept by every tick, from every state that has it (R26 (b), R30, R37, R40). -/
def Obligations.EveryTickKeepsTheInvariant : Prop :=
  ∀ s t : State, s.Inv → step s = .next t → t.Inv

/-- The invariant holds of the state after reset. -/
def Obligations.ResetMeetsTheInvariant : Prop := State.reset.Inv

/-- The invariant is kept by every operation of the host (R200), so it holds in every state the engine can be in. -/
def Obligations.HostOperationsKeepTheInvariant : Prop :=
  ∀ s : State, s.Inv → (hostReset s).Inv ∧ (∀ image, (load image s).1.Inv) ∧ (∀ k, (setKeypad k s).Inv) ∧
    ∀ dt st, (setTimers dt st s).Inv

/-- What a fault records (R180 to R188) is true of the state it leaves: the illegal word is the word at `pc`, the `pc` of a
fetch past memory, the address of a last sprite row above 4095, the number in some register that names no key, the `pc` of a
CALL on a full stack or of a RET on an empty one. -/
def Obligations.LatchedFaultTellsItsCause : Prop :=
  ∀ (s t : State) (kind : FaultKind) (info : Word), s.Inv → step s = .next t → t.status = .faulted kind info →
    t.FaultExplained kind info

/-- The memory's form is canonical: two memories in it that read alike everywhere are the same data. This is of the model's
own form of memory (log entry 10), not a rule of the spec. -/
def Obligations.MemoryFormIsCanonical : Prop :=
  ∀ m m' : Memory, m.wf = true → m'.wf = true → (∀ a, Memory.read m a = Memory.read m' a) → m = m'

/-- The timers are invisible to programs (R196): two states that differ in the timers only go to states that differ in the
timers only. -/
def Obligations.TimersDoNotInfluencePrograms : Prop :=
  ∀ (s t : State) (d e : Byte), step s = .next t →
    ∃ d' e', step { s with dt := d, st := e } = .next { t with dt := d', st := e' }

/-- The screen and the `changed` flag are invisible to programs: what DRW reports in VF and `changed` "does not depend on what
was on the screen" (R174), and no tick reads `changed` (R28, R121). Two states that differ in the framebuffer and in
`changed` only go to states that differ in the framebuffer only. -/
def Obligations.ScreenDoesNotInfluencePrograms : Prop :=
  ∀ (s t : State) (f : Framebuffer) (b : Bool), step s = .next t →
    ∃ f', step { s with fb := f, changed := b } = .next { t with fb := f' }

/-- The keypad is read by SKP and SKNP only (R42). -/
def Obligations.KeypadIsReadByKeySkipsOnly : Prop :=
  ∀ (s t : State) (k : Vector Bool 16), step s = .next t →
    (∀ x, decode (wordAtPc s) ≠ .skp x) → (∀ x, decode (wordAtPc s) ≠ .sknp x) →
    step { s with keys := k } = .next { t with keys := k }

/-- The random source is read by RND only (R44, D10): in a tick of any other instruction the bytes to come have no
influence. -/
def Obligations.FreeBytesAreReadByRandomOnly : Prop :=
  ∀ (s t : State) (d : Nat), step s = .next t → (∀ x kk, decode (wordAtPc s) ≠ .rnd x kk) →
    step { s with draws := d } = .next { t with draws := d }

/-- The good end of a run (R232, D25) stays: at a jump to self every tick leaves everything but `changed` and the timers as
it is. -/
def Obligations.JumpToSelfStays : Prop :=
  ∀ s : State, s.AtGoodEnd → ∃ t, step s = .next t ∧ t.AtGoodEnd ∧
    t = { s with changed := false, dt := oneLess s.dt, st := oneLess s.st }

/-! ### Control transfer (41_flow.md) -/

/-- R140: SYS nnn does nothing but go on, and its tick is every tick's common part. -/
def Obligations.SysIsANoOperation : Prop :=
  (∀ w : Word, w &&& 0xF000#16 = 0x0000#16 → w &&& 0xF0FF#16 ≠ 0x00E0#16 → w &&& 0xF0FF#16 ≠ 0x00EE#16 →
    decode w = .sys (nnnField w)) ∧
  (∀ nnn s, exec (.sys nnn) s = .next { s with pc := s.pc + 2 }) ∧
  ∀ (s : State) (nnn : Imm12), s.status = .running → s.pc.toNat ≤ 4094 → decode (wordAtPc s) = .sys nnn →
    step s = .next { s with changed := false, pc := s.pc + 2, dt := oneLess s.dt, st := oneLess s.st }

/-- RET pops the top of the stack into `pc`, with no further advance, the sentinel like any entry (R141, R38, D1). -/
def Obligations.ReturnPopsIntoPc : Prop :=
  ∀ (u : Nibble) (s : State) (below : List Word) (target : Word), s.stack = below ++ [target] →
    exec (.ret u) s = .next { s with stack := below, pc := target }

/-- JP nnn sets `pc` to `nnn` exactly, odd or even, its own address too (R142). -/
def Obligations.JumpSetsPc : Prop :=
  ∀ (nnn : Imm12) (s : State), ∃ t, exec (.jp nnn) s = .next t ∧ t.pc.toNat = nnn.toNat ∧ t = { s with pc := t.pc }

/-- CALL nnn on a stack that is not full pushes the address after the CALL and jumps (R143, D1, D2). -/
def Obligations.CallPushesTheReturnAddress : Prop :=
  ∀ (nnn : Imm12) (s : State), depthReached Config.stackDepth s.stack.length = false →
    exec (.call nnn) s = .next { s with stack := s.stack ++ [s.pc + 2], pc := nnn.setWidth 16 }

/-- CALL raises `StackOverflow(pc)` exactly when the stack holds STACK_DEPTH entries, the sentinel counted, and never when
STACK_DEPTH is unbounded (R143, R186, D2). -/
def Obligations.CallOverflowsExactlyWhenFull : Prop :=
  (∀ (nnn : Imm12) (s : State), exec (.call nnn) s =
    .next (if depthReached Config.stackDepth s.stack.length = true then { s with status := .faulted .stackOverflow s.pc }
      else { s with stack := s.stack ++ [s.pc + 2], pc := nnn.setWidth 16 })) ∧
  (∀ len, depthReached .unbounded len = false) ∧
  ∀ k len, depthReached (.bounded k) len = true ↔ len = k + 1

/-- JP V0,nnn sets `pc` to the sum of `nnn` and V0, always V0, which does not wrap (R144, R165 (c)). -/
def Obligations.JumpWithOffsetAddsV0 : Prop :=
  ∀ (nnn : Imm12) (s : State), ∃ t, exec (.jpV0 nnn) s = .next t ∧
    t.pc.toNat = nnn.toNat + (s.readV 0).toNat ∧ t = { s with pc := t.pc }

/-- R145 (a): for a CALL that completes and the RET that pops its entry, whatever the machine did between them, execution
resumes after the CALL, and the stack is as before it. -/
def Obligations.ReturnResumesAfterItsCall : Prop :=
  ∀ (nnn : Imm12) (u : Nibble) (s t t' r : State), exec (.call nnn) s = .next t → t.status = .running →
    t'.stack = t.stack → exec (.ret u) t' = .next r → r.pc = s.pc + 2 ∧ r.stack = s.stack

/-! ### Conditional skips (42_skip.md) -/

/-- SE and SNE: `pc + 4` when the condition holds, `pc + 2` when not, and nothing else (R150, R151). -/
def Obligations.RegisterSkipsCompareWithTheImmediate : Prop :=
  ∀ (x : Reg) (kk : Byte) (s : State),
    exec (.se x kk) s = .next { s with pc := if s.readV x = kk then s.pc + 4 else s.pc + 2 } ∧
    exec (.sne x kk) s = .next { s with pc := if s.readV x ≠ kk then s.pc + 4 else s.pc + 2 }

/-- For every state exactly one of SE Vx,kk and SNE Vx,kk skips (R151), and for every state with a key number in V[x]
exactly one of SKP Vx and SKNP Vx (R153). -/
def Obligations.ExactlyOneOfEachSkipPairSkips : Prop :=
  ∀ (x : Reg) (kk : Byte) (s a b c d : State), exec (.se x kk) s = .next a → exec (.sne x kk) s = .next b →
    exec (.skp x) s = .next c → exec (.sknp x) s = .next d →
    ((a.pc = s.pc + 4 ∧ b.pc = s.pc + 2) ∨ (a.pc = s.pc + 2 ∧ b.pc = s.pc + 4)) ∧
    ((s.readV x).toNat ≤ 15 →
      (c.pc = s.pc + 4 ∧ d.pc = s.pc + 2) ∨ (c.pc = s.pc + 2 ∧ d.pc = s.pc + 4))

/-- SKP and SKNP with a key number in V[x]: the value of the register names the key (R152, R153). -/
def Obligations.KeySkipsTestTheNamedKey : Prop :=
  ∀ (x : Reg) (k : Fin 16) (s : State), (s.readV x).toNat = k.val →
    exec (.skp x) s = .next { s with pc := if s.keys.get k = true then s.pc + 4 else s.pc + 2 } ∧
    exec (.sknp x) s = .next { s with pc := if s.keys.get k = false then s.pc + 4 else s.pc + 2 }

/-- The faults of single instructions: a key number above 15 (R185, D6), a RET on an empty stack (R187, D3), a sprite whose
last row is past memory, checked before any effect (R184, D5). Nothing but `status` is written. -/
def Obligations.OperandFaultsWriteStatusOnly : Prop :=
  (∀ (x : Reg) (s : State), 15 < (s.readV x).toNat →
    exec (.skp x) s = .next { s with status := .faulted .keyRange ((s.readV x).setWidth 16) } ∧
    exec (.sknp x) s = .next { s with status := .faulted .keyRange ((s.readV x).setWidth 16) }) ∧
  (∀ (u : Nibble) (s : State), s.stack = [] →
    exec (.ret u) s = .next { s with status := .faulted .stackUnderflow s.pc }) ∧
  ∀ (x y : Reg) (n : Nibble) (s : State), 1 ≤ n.toNat → 4095 < s.index.toNat + n.toNat - 1 →
    exec (.drw x y n) s =
      .next { s with status := .faulted .spriteRange (BitVec.ofNat 16 (s.index.toNat + n.toNat - 1)) }

/-! ### Loads, add, random (43_load_arith.md) -/

/-- R160: LD Vx,kk. -/
def Obligations.LoadImmediateWritesVx : Prop :=
  (∀ w : Word, w &&& 0xF000#16 = 0x6000#16 → decode w = .ldImm (xField w) (kkField w)) ∧
  ∀ (x : Reg) (kk : Byte) (s : State), ∃ t, exec (.ldImm x kk) s = .next t ∧
    t.readV x = kk ∧ (∀ r, r ≠ x → t.readV r = s.readV r) ∧ t = { s with v := t.v, pc := s.pc + 2 }

/-- R161: ADD Vx,kk is modulo 256 and writes no carry. -/
def Obligations.AddImmediateWrapsWithoutCarry : Prop :=
  (∀ w : Word, w &&& 0xF000#16 = 0x7000#16 → decode w = .addImm (xField w) (kkField w)) ∧
  ∀ (x : Reg) (kk : Byte) (s : State), ∃ t, exec (.addImm x kk) s = .next t ∧
    (t.readV x).toNat = ((s.readV x).toNat + kk.toNat) % 256 ∧ (∀ r, r ≠ x → t.readV r = s.readV r) ∧
    t = { s with v := t.v, pc := s.pc + 2 }

/-- LD Vx,Vy copies (R162); the other words of family 8 raise `InvalidOpcode` (R162, R100), latched in `status` (D11) in a next
state of an illegal row that is a constructor (log entries 6 and 14). -/
def Obligations.CopyRegisterWritesVx : Prop :=
  (∀ w : Word, w &&& 0xF00F#16 = 0x8000#16 → decode w = .ldReg (xField w) (yField w)) ∧
  (∀ (w : Word) (s : State), w &&& 0xF000#16 = 0x8000#16 → w &&& 0xF00F#16 ≠ 0x8000#16 →
    ∃ t, exec (decode w) s = .next t ∧ t.status = .faulted .invalidOpcode w) ∧
  ∀ (x y : Reg) (s : State), ∃ t, exec (.ldReg x y) s = .next t ∧
    t.readV x = s.readV y ∧ (∀ r, r ≠ x → t.readV r = s.readV r) ∧ t = { s with v := t.v, pc := s.pc + 2 }

/-- LD I,nnn: bits 15 to 12 of `I` become 0 (R163). -/
def Obligations.LoadIndexZeroExtends : Prop :=
  ∀ (nnn : Imm12) (s : State), ∃ t, exec (.ldI nnn) s = .next t ∧ t.index.toNat = nnn.toNat ∧
    t = { s with index := t.index, pc := s.pc + 2 }

/-- RND Vx,kk writes the free byte AND `kk`, whatever byte it is, and uses that byte up (R164, D10; the counter is the
model's, log entries 1 and 2). Bits that are 0 in the mask are 0 in the result; a mask of 0xFF gives the byte itself. -/
def Obligations.RandomByteIsMasked : Prop :=
  ∀ (x : Reg) (kk : Byte) (s : State), ∃ t, exec (.rnd x kk) s = .next t ∧
    t.readV x = Config.freeByte s.draws &&& kk ∧ t.readV x &&& ~~~kk = 0 ∧
    (kk = 0xFF → t.readV x = Config.freeByte s.draws) ∧ (∀ r, r ≠ x → t.readV r = s.readV r) ∧
    t = { s with v := t.v, pc := s.pc + 2, draws := s.draws + 1 }

/-! ### Display (44_display.md) -/

/-- CLS: every pixel is 0; neither VF nor `changed` is written (R170). -/
def Obligations.ClearScreenBlanksEveryPixel : Prop :=
  ∀ (u : Nibble) (s : State), ∃ t, exec (.cls u) s = .next t ∧ (∀ y x, t.pixel y x = false) ∧
    t = { s with fb := t.fb, pc := s.pc + 2 }

/-- DRW in range, `n = 0` included: the pixel of row `r`, column offset `c` is XORed with bit `7 - c` of `mem[I + r]`, with
wrap-around on both axes; every other pixel, every register but VF and everything else but `changed` and `pc` is as before
(R171 to R173, R175; D5, D8). -/
def Obligations.DrawXorsTheSpriteWithWrapAround : Prop :=
  ∀ (x y : Reg) (n : Nibble) (s : State), (n.toNat = 0 ∨ s.index.toNat + n.toNat - 1 ≤ 4095) →
    ∃ t, exec (.drw x y n) s = .next t ∧
    (∀ (r c : Nat) (yy : Fin 32) (xx : Fin 64), r < n.toNat → c < 8 →
      yy.val = ((s.readV y).toNat % 32 + r) % 32 → xx.val = ((s.readV x).toNat % 64 + c) % 64 →
      t.pixel yy xx = Bool.xor (s.pixel yy xx) ((s.readMem (s.index.toNat + r)).getLsbD (7 - c))) ∧
    (∀ (yy : Fin 32) (xx : Fin 64),
      (∀ r c : Nat, r < n.toNat → c < 8 →
        ¬(yy.val = ((s.readV y).toNat % 32 + r) % 32 ∧ xx.val = ((s.readV x).toNat % 64 + c) % 64)) →
      t.pixel yy xx = s.pixel yy xx) ∧
    (∀ r, r ≠ 15 → t.readV r = s.readV r) ∧
    t = { s with v := t.v, fb := t.fb, changed := t.changed, pc := s.pc + 2 }

/-- DRW in range reports change, not collision: `changed` is 1 exactly when some sprite byte is nonzero, which is exactly
when some pixel flipped; VF is 0x01 or 0x00 accordingly, always written (R174, D19). -/
def Obligations.DrawReportsChangeInVfAndChanged : Prop :=
  ∀ (x y : Reg) (n : Nibble) (s : State), (n.toNat = 0 ∨ s.index.toNat + n.toNat - 1 ≤ 4095) →
    ∃ t, exec (.drw x y n) s = .next t ∧
    (t.changed = true ↔ ∃ r, r < n.toNat ∧ s.readMem (s.index.toNat + r) ≠ 0) ∧
    (t.changed = true ↔ ∃ yy xx, t.pixel yy xx ≠ s.pixel yy xx) ∧
    t.readV 15 = if t.changed = true then 0x01 else 0x00

/-- R175 (e): drawing the same sprite twice at the same place restores the framebuffer, and VF is the same both times. The
registers are not VF, which the first draw writes. -/
def Obligations.DrawingTwiceRestoresTheScreen : Prop :=
  ∀ (x y : Reg) (n : Nibble) (s t r : State), x ≠ 15 → y ≠ 15 → exec (.drw x y n) s = .next t →
    exec (.drw x y n) t = .next r → r.fb = s.fb ∧ r.readV 15 = t.readV 15 ∧ r.changed = t.changed

/-! ### The illegal space (60_exceptions.md R181) -/

/-- Each illegal row raises `InvalidOpcode` with the whole word, operand bits included, and writes nothing but `status`
(R181, R191, D12). -/
def Obligations.IllegalRowsRaiseInvalidOpcode : Prop :=
  ∀ (u : Imm12) (s : State),
    exec (.illegal5 u) s = .next { s with status := .faulted .invalidOpcode (BitVec.ofNat 16 (0x5000 + u.toNat)) } ∧
    exec (.illegal8 u) s = .next { s with status := .faulted .invalidOpcode (BitVec.ofNat 16 (0x8000 + u.toNat)) } ∧
    exec (.illegal9 u) s = .next { s with status := .faulted .invalidOpcode (BitVec.ofNat 16 (0x9000 + u.toNat)) } ∧
    exec (.illegalE u) s = .next { s with status := .faulted .invalidOpcode (BitVec.ofNat 16 (0xE000 + u.toNat)) } ∧
    exec (.illegalF u) s = .next { s with status := .faulted .invalidOpcode (BitVec.ofNat 16 (0xF000 + u.toNat)) }

/-! ### Frames -/

/-- The frame of the loads, ADD and RND (R160 to R164): all registers but Vx, all of memory and the screen, the stack, the
timers, the keypad, `changed` and `status` are unchanged; `I` too, and the free bytes are used by RND only. -/
def Obligations.FrameOfLoadsAndAdd : Prop :=
  ∀ (x y : Reg) (kk : Byte) (s t : State) (i : Instr), exec i s = .next t →
    (i = .ldImm x kk ∨ i = .addImm x kk ∨ i = .ldReg x y ∨ i = .rnd x kk) →
    SameRegsBut [x] s t ∧ SameMemory s t ∧ SameScreen s t ∧ SameTimersAndKeys s t ∧ t.index = s.index ∧
    t.stack = s.stack ∧ t.changed = s.changed ∧ t.status = s.status ∧ (i ≠ .rnd x kk → t.draws = s.draws)

/-- The frame of LD I,nnn and of the instructions that write `pc` only: SYS, JP, JP V0, SE, SNE (R140, R142, R144, R150,
R151, R163). -/
def Obligations.FrameOfJumpsSkipsAndLoadIndex : Prop :=
  ∀ (x : Reg) (kk : Byte) (nnn : Imm12) (s t : State) (i : Instr), exec i s = .next t →
    (i = .sys nnn ∨ i = .jp nnn ∨ i = .jpV0 nnn ∨ i = .se x kk ∨ i = .sne x kk ∨ i = .ldI nnn) →
    SameRegsBut [] s t ∧ SameMemory s t ∧ SameScreen s t ∧ SameTimersAndKeys s t ∧ (i ≠ .ldI nnn → t.index = s.index) ∧
    t.stack = s.stack ∧ t.changed = s.changed ∧ t.status = s.status ∧ t.draws = s.draws

/-- The frame of the instructions that can raise a fault and write no register: CALL, RET, SKP, SKNP and the illegal rows
(R141, R143, R152, R153, R181, R191). `status` changes only to a fault, and then `pc` and the stack do not; the stack
changes in CALL and RET only. -/
def Obligations.FrameOfCallsKeySkipsAndIllegalWords : Prop :=
  ∀ (x : Reg) (u : Nibble) (nnn : Imm12) (s t : State) (i : Instr), exec i s = .next t →
    (i = .call nnn ∨ i = .ret u ∨ i = .skp x ∨ i = .sknp x ∨ i = .illegal5 nnn ∨ i = .illegal8 nnn ∨ i = .illegal9 nnn ∨
      i = .illegalE nnn ∨ i = .illegalF nnn) →
    SameRegsBut [] s t ∧ SameMemory s t ∧ SameScreen s t ∧ SameTimersAndKeys s t ∧ t.index = s.index ∧
    t.changed = s.changed ∧ t.draws = s.draws ∧
    (t.status = s.status ∨ ((∃ kind info, t.status = .faulted kind info) ∧ t.pc = s.pc ∧ t.stack = s.stack)) ∧
    (t.stack ≠ s.stack → i = .call nnn ∨ i = .ret u)

/-- The frame of CLS and DRW (R170, R171): no byte of memory, no register but VF, and VF and `changed` by DRW only. The
screen may change; `status` changes only to DRW's fault, and then nothing else does. -/
def Obligations.FrameOfDisplay : Prop :=
  ∀ (x y : Reg) (n u : Nibble) (s t : State) (i : Instr), exec i s = .next t → (i = .cls u ∨ i = .drw x y n) →
    SameRegsBut [15] s t ∧ SameMemory s t ∧ SameTimersAndKeys s t ∧ t.index = s.index ∧ t.stack = s.stack ∧
    t.draws = s.draws ∧ (i = .cls u → t.readV 15 = s.readV 15 ∧ t.changed = s.changed ∧ t.status = s.status) ∧
    (t.status = s.status ∨ ∃ info, t = { s with status := .faulted .spriteRange info })

/-! ### Reset, load and the host's operations (70_reset_and_hazards.md, 60_exceptions.md R194 to R203) -/

/-- R23: every general register is 0x00 after reset and after a successful load. -/
def Obligations.GeneralRegistersAreZeroAfterResetAndLoad : Prop :=
  ∀ (r : Reg) (s : State) (image : List Byte), State.reset.readV r = 0x00 ∧ (hostReset s).readV r = 0x00 ∧
    ((load image s).2 = .ok → (load image s).1.readV r = 0x00)

/-- What reset leaves in every other item of state, from whatever state (R220 to R222; `changed` by D28, `status` by D11 and
D21; the random source is not touched, here the model's counter, log entry 2). The state after power-on is one of these. -/
def Obligations.ResetLeavesEveryItemAsTabled : Prop :=
  (∀ s : State, (hostReset s).index = 0x0000 ∧ (hostReset s).pc = 512 ∧ (hostReset s).stack = [0x0000] ∧
    (hostReset s).dt = 0 ∧ (hostReset s).st = 0 ∧ (hostReset s).changed = false ∧ (hostReset s).status = .running ∧
    (∀ y x, (hostReset s).pixel y x = false) ∧ (∀ k, (hostReset s).keys.get k = false) ∧
    (∀ a : Fin 80, (hostReset s).readMem a.val = Config.font a) ∧
    (∀ a, 80 ≤ a → a ≤ 4095 → (hostReset s).readMem a = 0x00) ∧ (hostReset s).draws = s.draws) ∧
  hostReset State.reset = State.reset

/-- A load of at most 3584 bytes: byte `i` of the image at address `512 + i`, every other address and every other item as
after reset (R225, R226). -/
def Obligations.LoadPlacesTheImage : Prop :=
  ∀ (image : List Byte) (s : State), image.length ≤ 3584 → ∃ t, load image s = (t, .ok) ∧
    (∀ (i : Nat) (h : i < image.length), t.readMem (512 + i) = image[i]) ∧
    (∀ a, a < 512 ∨ 512 + image.length ≤ a → t.readMem a = (hostReset s).readMem a) ∧
    t = { hostReset s with mem := t.mem }

/-- A load of more than 3584 bytes changes nothing at all and reports both sizes (R182, R225; the pair by D18). -/
def Obligations.LoadOfTooLargeAnImageChangesNothing : Prop :=
  ∀ (image : List Byte) (s : State), 3584 < image.length →
    load image s = (s, .imageTooLarge image.length 3584)

/-- After a load the first tick executes the first two bytes of the image, the first byte high; bytes the image lacks are 0
(R60, R223, R227). -/
def Obligations.FirstTickAfterLoadRunsTheImage : Prop :=
  ∀ (image : List Byte) (s : State), image.length ≤ 3584 →
    step (load image s).1 =
      runInstr (decode (image.getD 0 0x00 ++ image.getD 1 0x00)) { (load image s).1 with changed := false }

/-- The keypad write and the timer write do that and nothing else, also on a halted engine; only reset and a load that
succeeds leave the halted state (R192, R194, R197, R201; D13, D21; the optional arguments are the model's, log entry 18). -/
def Obligations.HostWritesAndLeavingTheHaltedState : Prop :=
  ∀ s : State, (∀ k, setKeypad k s = { s with keys := k }) ∧
    (∀ dt st, setTimers (some dt) (some st) s = { s with dt := dt, st := st }) ∧
    (∀ dt, setTimers (some dt) none s = { s with dt := dt }) ∧ (∀ st, setTimers none (some st) s = { s with st := st }) ∧
    (hostReset s).status = .running ∧
    ∀ image, ((load image s).2 = .ok ∧ (load image s).1.status = .running) ∨
      ((load image s).2 = .imageTooLarge image.length 3584 ∧ (load image s).1 = s)
end

