-- ==== Sys2Proof/Laws/Bits.lean ====
section
/-! SUPPORT. Instruction words as numbers: each field of a word, each masked word and each encoding as sums, quotients and
remainders, so that facts about encodings close by linear arithmetic. -/

namespace Sys2Proof

/-- Putting `a` in the high bits and `b` in the low bits (00_scope.md R9), as a number. -/
theorem toNat_append_add {m n : Nat} (a : BitVec m) (b : BitVec n) : (a ++ b).toNat = a.toNat * 2 ^ n + b.toNat := by
  rw [BitVec.toNat_append, ← Nat.shiftLeft_add_eq_or_of_lt b.isLt, Nat.shiftLeft_eq]

theorem toNat_extract {m : Nat} (a : BitVec m) (start len : Nat) :
    (a.extractLsb' start len).toNat = a.toNat / 2 ^ start % 2 ^ len := by
  rw [BitVec.extractLsb'_toNat, Nat.shiftRight_eq_div_pow]

/-! ### Fields (R91) -/

theorem toNat_opField (w : Word) : (opField w).toNat = w.toNat / 4096 := by
  have := w.isLt
  rw [opField, toNat_extract]
  omega

theorem val_xField (w : Word) : (xField w).val = w.toNat / 256 % 16 := toNat_extract w 8 4

theorem val_yField (w : Word) : (yField w).val = w.toNat / 16 % 16 := toNat_extract w 4 4

theorem toNat_nField (w : Word) : (nField w).toNat = w.toNat % 16 := by
  rw [nField, toNat_extract]; simp

theorem toNat_kkField (w : Word) : (kkField w).toNat = w.toNat % 256 := by
  rw [kkField, toNat_extract]; simp

theorem toNat_nnnField (w : Word) : (nnnField w).toNat = w.toNat % 4096 := by
  rw [nnnField, toNat_extract]; simp

theorem toNat_uField (w : Word) : (uField w).toNat = w.toNat / 256 % 16 := toNat_extract w 8 4

theorem toNat_lowByte (u : Imm12) : (Imm12.lowByte u).toNat = u.toNat % 256 := by
  rw [Imm12.lowByte, toNat_extract]; simp

theorem toNat_lowNibble (u : Imm12) : (Imm12.lowNibble u).toNat = u.toNat % 16 := by
  rw [Imm12.lowNibble, toNat_extract]; simp

theorem toNat_regBits (r : Reg) : (regBits r).toNat = r.val := by
  have := r.isLt
  simp [regBits]

/-! ### Masks (R97) -/

theorem toNat_maskOp (w : Word) : (w &&& 0xF000#16).toNat = w.toNat / 4096 * 4096 := by
  have h : w &&& 0xF000#16 = (w.extractLsb' 12 4 ++ 0#12 : BitVec (4 + 12)) := by
    apply BitVec.eq_of_getLsbD_eq
    intro i hi
    rw [BitVec.getLsbD_and, BitVec.getLsbD_append, BitVec.getLsbD_extractLsb']
    interval_cases i <;> simp
  rw [h, toNat_append_add, toNat_extract]
  have := w.isLt
  simp only [BitVec.toNat_ofNat]
  omega

theorem toNat_maskOpLowByte (w : Word) : (w &&& 0xF0FF#16).toNat = w.toNat / 4096 * 4096 + w.toNat % 256 := by
  have h : w &&& 0xF0FF#16 = (w.extractLsb' 12 4 ++ (0#4 ++ w.extractLsb' 0 8) : BitVec (4 + (4 + 8))) := by
    apply BitVec.eq_of_getLsbD_eq
    intro i hi
    rw [BitVec.getLsbD_and, BitVec.getLsbD_append, BitVec.getLsbD_append, BitVec.getLsbD_extractLsb',
      BitVec.getLsbD_extractLsb']
    interval_cases i <;> simp
  rw [h, toNat_append_add, toNat_append_add, toNat_extract, toNat_extract]
  have := w.isLt
  simp only [BitVec.toNat_ofNat]
  omega

theorem toNat_maskOpLowNibble (w : Word) : (w &&& 0xF00F#16).toNat = w.toNat / 4096 * 4096 + w.toNat % 16 := by
  have h : w &&& 0xF00F#16 = (w.extractLsb' 12 4 ++ (0#8 ++ w.extractLsb' 0 4) : BitVec (4 + (8 + 4))) := by
    apply BitVec.eq_of_getLsbD_eq
    intro i hi
    rw [BitVec.getLsbD_and, BitVec.getLsbD_append, BitVec.getLsbD_append, BitVec.getLsbD_extractLsb',
      BitVec.getLsbD_extractLsb']
    interval_cases i <;> simp
  rw [h, toNat_append_add, toNat_append_add, toNat_extract, toNat_extract]
  have := w.isLt
  simp only [BitVec.toNat_ofNat]
  omega

/-! ### Encodings -/

/-- The word of every instruction as a number: the fields at the places R91 gives them. -/
def encodedNat : Instr → Nat
  | .cls u => u.toNat * 256 + 0xE0
  | .ret u => u.toNat * 256 + 0xEE
  | .sys nnn => nnn.toNat
  | .jp nnn => 0x1000 + nnn.toNat
  | .call nnn => 0x2000 + nnn.toNat
  | .se x kk => 0x3000 + x.val * 256 + kk.toNat
  | .sne x kk => 0x4000 + x.val * 256 + kk.toNat
  | .ldImm x kk => 0x6000 + x.val * 256 + kk.toNat
  | .addImm x kk => 0x7000 + x.val * 256 + kk.toNat
  | .ldReg x y => 0x8000 + x.val * 256 + y.val * 16
  | .ldI nnn => 0xA000 + nnn.toNat
  | .jpV0 nnn => 0xB000 + nnn.toNat
  | .rnd x kk => 0xC000 + x.val * 256 + kk.toNat
  | .drw x y n => 0xD000 + x.val * 256 + y.val * 16 + n.toNat
  | .skp x => 0xE000 + x.val * 256 + 0x9E
  | .sknp x => 0xE000 + x.val * 256 + 0xA1
  | .illegal5 u => 0x5000 + u.toNat
  | .illegal8 u => 0x8000 + u.toNat
  | .illegal9 u => 0x9000 + u.toNat
  | .illegalE u => 0xE000 + u.toNat
  | .illegalF u => 0xF000 + u.toNat

theorem toNat_encode (i : Instr) : (encode i).toNat = encodedNat i := by
  cases i <;> simp only [encode, encodedNat, toNat_append_add, toNat_regBits, BitVec.toNat_ofNat] <;> omega

/-- A row matches a word exactly when the masked word, as a number, is the row's match value. -/
theorem rowMatches_iff (w : Word) (r : OpcodeRow) :
    rowMatches w r = true ↔ (w &&& rowMask r).toNat = (rowMatch r).toNat := by
  rw [rowMatches, beq_iff_eq]
  exact ⟨fun h => by rw [h], BitVec.eq_of_toNat_eq⟩

end Sys2Proof
end

