-- ==== Sys2Proof/Laws/Decode.lean ====
section
/-! SUPPORT. What the decoder can answer, said once: facts about decoding go through `decode_cases` in place of unfolding the
decode tree. -/

namespace Sys2Proof

theorem kkField_eq_iff (w : Word) (k : Byte) : kkField w = k ↔ w.toNat % 256 = k.toNat := by
  rw [← toNat_kkField]
  exact ⟨fun h => by rw [h], BitVec.eq_of_toNat_eq⟩

theorem nField_eq_iff (w : Word) (k : Nibble) : nField w = k ↔ w.toNat % 16 = k.toNat := by
  rw [← toNat_nField]
  exact ⟨fun h => by rw [h], BitVec.eq_of_toNat_eq⟩

theorem decodeFamily0_cases (w : Word) :
    (w.toNat % 256 = 0xE0 ∧ decodeFamily0 w = .cls (uField w)) ∨
    (w.toNat % 256 = 0xEE ∧ decodeFamily0 w = .ret (uField w)) ∨
    (w.toNat % 256 ≠ 0xE0 ∧ w.toNat % 256 ≠ 0xEE ∧ decodeFamily0 w = .sys (nnnField w)) := by
  simp only [decodeFamily0, kkField_eq_iff, BitVec.ofNat_eq_ofNat, BitVec.toNat_ofNat]
  split
  · exact .inl ⟨‹_›, rfl⟩
  · split
    · exact .inr (.inl ⟨‹_›, rfl⟩)
    · exact .inr (.inr ⟨‹_›, ‹_›, rfl⟩)

theorem decodeFamily8_cases (w : Word) :
    (w.toNat % 16 = 0 ∧ decodeFamily8 w = .ldReg (xField w) (yField w)) ∨
    (w.toNat % 16 ≠ 0 ∧ decodeFamily8 w = .illegal8 (nnnField w)) := by
  simp only [decodeFamily8, nField_eq_iff, BitVec.ofNat_eq_ofNat, BitVec.toNat_ofNat]
  split
  · exact .inl ⟨‹_›, rfl⟩
  · exact .inr ⟨‹_›, rfl⟩

theorem decodeFamilyE_cases (w : Word) :
    (w.toNat % 256 = 0x9E ∧ decodeFamilyE w = .skp (xField w)) ∨
    (w.toNat % 256 = 0xA1 ∧ decodeFamilyE w = .sknp (xField w)) ∨
    (w.toNat % 256 ≠ 0x9E ∧ w.toNat % 256 ≠ 0xA1 ∧ decodeFamilyE w = .illegalE (nnnField w)) := by
  simp only [decodeFamilyE, kkField_eq_iff, BitVec.ofNat_eq_ofNat, BitVec.toNat_ofNat]
  split
  · exact .inl ⟨‹_›, rfl⟩
  · split
    · exact .inr (.inl ⟨‹_›, rfl⟩)
    · exact .inr (.inr ⟨‹_›, ‹_›, rfl⟩)

/-- Every answer of the decoder, with the word, as a number, that it is the answer to. -/
theorem decode_cases (w : Word) :
    (w.toNat / 4096 = 0x0 ∧ w.toNat % 256 = 0xE0 ∧ decode w = .cls (uField w)) ∨
    (w.toNat / 4096 = 0x0 ∧ w.toNat % 256 = 0xEE ∧ decode w = .ret (uField w)) ∨
    (w.toNat / 4096 = 0x0 ∧ w.toNat % 256 ≠ 0xE0 ∧ w.toNat % 256 ≠ 0xEE ∧ decode w = .sys (nnnField w)) ∨
    (w.toNat / 4096 = 0x1 ∧ decode w = .jp (nnnField w)) ∨
    (w.toNat / 4096 = 0x2 ∧ decode w = .call (nnnField w)) ∨
    (w.toNat / 4096 = 0x3 ∧ decode w = .se (xField w) (kkField w)) ∨
    (w.toNat / 4096 = 0x4 ∧ decode w = .sne (xField w) (kkField w)) ∨
    (w.toNat / 4096 = 0x5 ∧ decode w = .illegal5 (nnnField w)) ∨
    (w.toNat / 4096 = 0x6 ∧ decode w = .ldImm (xField w) (kkField w)) ∨
    (w.toNat / 4096 = 0x7 ∧ decode w = .addImm (xField w) (kkField w)) ∨
    (w.toNat / 4096 = 0x8 ∧ w.toNat % 16 = 0 ∧ decode w = .ldReg (xField w) (yField w)) ∨
    (w.toNat / 4096 = 0x8 ∧ w.toNat % 16 ≠ 0 ∧ decode w = .illegal8 (nnnField w)) ∨
    (w.toNat / 4096 = 0x9 ∧ decode w = .illegal9 (nnnField w)) ∨
    (w.toNat / 4096 = 0xA ∧ decode w = .ldI (nnnField w)) ∨
    (w.toNat / 4096 = 0xB ∧ decode w = .jpV0 (nnnField w)) ∨
    (w.toNat / 4096 = 0xC ∧ decode w = .rnd (xField w) (kkField w)) ∨
    (w.toNat / 4096 = 0xD ∧ decode w = .drw (xField w) (yField w) (nField w)) ∨
    (w.toNat / 4096 = 0xE ∧ w.toNat % 256 = 0x9E ∧ decode w = .skp (xField w)) ∨
    (w.toNat / 4096 = 0xE ∧ w.toNat % 256 = 0xA1 ∧ decode w = .sknp (xField w)) ∨
    (w.toNat / 4096 = 0xE ∧ w.toNat % 256 ≠ 0x9E ∧ w.toNat % 256 ≠ 0xA1 ∧ decode w = .illegalE (nnnField w)) ∨
    (w.toNat / 4096 = 0xF ∧ decode w = .illegalF (nnnField w)) := by
  have h0 := decodeFamily0_cases w
  have h8 := decodeFamily8_cases w
  have hE := decodeFamilyE_cases w
  have hlt : w.toNat / 4096 < 16 := by have := w.isLt; omega
  simp only [decode, toNat_opField]
  generalize w.toNat / 4096 = q at hlt ⊢
  interval_cases q <;> simp
  · simpa using h0
  · simpa using h8
  · simpa using hE

end Sys2Proof
end

