-- ==== Sys2Proof/Laws/Memory.lean ====
section
/-! SUPPORT. The laws of memory: every operation keeps the canonical form, a read after a write gives the value written, and
a write leaves every other address alone. -/

namespace Sys2Proof.Machine

/-- Memory as reset leaves it is in canonical form. -/
theorem Memory.wf_reset : Memory.wf State.reset.mem = true := rfl

/-- The head and the tail of a memory in canonical form. -/
theorem Memory.wfFrom_cons {lo a : Nat} {v : Byte} {m : Memory} :
    Memory.wfFrom lo ((a, v) :: m) = true ↔
      lo ≤ a ∧ a < Config.memSize ∧ v ≠ resetByte a ∧ Memory.wfFrom (a + 1) m = true := by
  simp [Memory.wfFrom, and_assoc]

/-- A lower start asks no more. -/
theorem Memory.wfFrom_mono {lo lo' : Nat} (hle : lo' ≤ lo) :
    ∀ {m : Memory}, Memory.wfFrom lo m = true → Memory.wfFrom lo' m = true
  | [], _ => rfl
  | (a, v) :: m, h => by
    rw [Memory.wfFrom_cons] at h ⊢
    exact ⟨le_trans hle h.1, h.2⟩

/-- An address below every listed one reads as reset leaves it. -/
theorem Memory.read_below {lo a : Nat} (ha : a < lo) :
    ∀ {m : Memory}, Memory.wfFrom lo m = true → Memory.read m a = resetByte a
  | [], _ => rfl
  | (b, v) :: m, h => by
    rw [Memory.wfFrom_cons] at h
    have hb : a ≠ b := by omega
    simp only [Memory.read, hb, if_false]
    exact Memory.read_below (lo := b + 1) (by omega) h.2.2.2

/-- Putting a cell into a canonical memory keeps the form. -/
theorem Memory.wfFrom_insert {lo a : Nat} {v : Byte} (hlo : lo ≤ a) (ha : a < Config.memSize) :
    ∀ {m : Memory}, Memory.wfFrom lo m = true → Memory.wfFrom lo (Memory.insert a v m) = true
  | [], _ => by
    unfold Memory.insert
    split
    · rfl
    · rw [Memory.wfFrom_cons]; exact ⟨hlo, ha, ‹_›, rfl⟩
  | (b, u) :: m, h => by
    have h' := Memory.wfFrom_cons.mp h
    unfold Memory.insert
    split
    · split
      · exact h
      · rw [Memory.wfFrom_cons]
        exact ⟨hlo, ha, ‹_›, Memory.wfFrom_cons.mpr ⟨by omega, h'.2⟩⟩
    · split
      · subst_vars
        split
        · exact Memory.wfFrom_mono (by omega) h'.2.2.2
        · rw [Memory.wfFrom_cons]; exact ⟨hlo, ha, ‹_›, h'.2.2.2⟩
      · rw [Memory.wfFrom_cons]
        exact ⟨h'.1, h'.2.1, h'.2.2.1, Memory.wfFrom_insert (by omega) ha h'.2.2.2⟩

/-- What reading gives after a cell has been put in. -/
theorem Memory.read_insert {lo a b : Nat} {v : Byte} :
    ∀ {m : Memory}, Memory.wfFrom lo m = true →
      Memory.read (Memory.insert a v m) b = if b = a then v else Memory.read m b
  | [], _ => by
    unfold Memory.insert
    by_cases hb : b = a <;> split <;> simp_all [Memory.read]
  | (c, u) :: m, h => by
    have h' := Memory.wfFrom_cons.mp h
    unfold Memory.insert
    split
    · by_cases hb : b = a
      · subst hb
        split
        · rw [if_pos rfl, Memory.read_below (lo := c) (by omega)
            (Memory.wfFrom_cons.mpr ⟨le_refl c, h'.2⟩)]
          exact (‹v = resetByte b›).symm
        · simp [Memory.read]
      · split <;> simp [Memory.read, hb]
    · split
      · subst_vars
        by_cases hb : b = c
        · subst hb
          split
          · rw [if_pos rfl, Memory.read_below (lo := b + 1) (by omega) h'.2.2.2]
            exact (‹v = resetByte b›).symm
          · simp [Memory.read]
        · split <;> simp [Memory.read, hb]
      · have ih := Memory.read_insert (a := a) (b := b) (v := v) h'.2.2.2
        by_cases hc : b = c
        · have : b ≠ a := by omega
          simp [Memory.read, hc]
          omega
        · simp [Memory.read, hc, ih]

/-- A write keeps the canonical form. -/
theorem Memory.wf_write {m : Memory} (h : m.wf = true) (a : Nat) (v : Byte) : (m.write a v).wf = true := by
  unfold Memory.write
  split
  · exact Memory.wfFrom_insert (Nat.zero_le a) ‹_› h
  · exact h

/-- A read after a write: the value written at its address, every other address as before. -/
theorem Memory.read_write {m : Memory} (h : m.wf = true) {a : Nat} (ha : a < Config.memSize) (b : Nat) (v : Byte) :
    (m.write a v).read b = if b = a then v else m.read b := by
  unfold Memory.write
  rw [if_pos ha]
  exact Memory.read_insert h

/-- Writing a list of bytes keeps the canonical form. -/
theorem Memory.wf_writeBytes : ∀ (bytes : List Byte) {m : Memory} (base : Nat), m.wf = true →
    (m.writeBytes base bytes).wf = true
  | [], _, _, h => h
  | v :: rest, _, base, h => Memory.wf_writeBytes rest (base + 1) (Memory.wf_write h base v)

/-- A read after a list of bytes has been written inside memory: byte `i` of the list at `base + i`, every other address as
before. -/
theorem Memory.read_writeBytes : ∀ (bytes : List Byte) {m : Memory} (base : Nat), m.wf = true →
    base + bytes.length ≤ Config.memSize → ∀ b, (m.writeBytes base bytes).read b =
      if h : base ≤ b ∧ b < base + bytes.length then bytes[b - base]'(by omega) else m.read b
  | [], m, base, _, _, b => by
    have : ¬(base ≤ b ∧ b < base + ([] : List Byte).length) := by simp
    simp only [Memory.writeBytes, this, dif_neg, not_false_eq_true]
  | v :: rest, m, base, h, hlen, b => by
    have hlen' : base + 1 + rest.length ≤ Config.memSize := by simpa [Nat.add_assoc, Nat.add_comm 1] using hlen
    have hb : base < Config.memSize := by omega
    rw [Memory.writeBytes, Memory.read_writeBytes rest (base + 1) (Memory.wf_write h base v) hlen' b,
      Memory.read_write h hb]
    by_cases hin : base + 1 ≤ b ∧ b < base + 1 + rest.length
    · have hin' : base ≤ b ∧ b < base + (v :: rest).length := by simp only [List.length_cons]; omega
      have hidx : b - base = (b - (base + 1)) + 1 := by omega
      simp only [hin, hin', and_self, dif_pos, hidx, List.getElem_cons_succ]
    · by_cases heq : b = base
      · subst heq
        simp
      · have hin' : ¬(base ≤ b ∧ b < base + (v :: rest).length) := by simp only [List.length_cons]; omega
        simp only [hin, hin', dif_neg, heq, if_false, not_false_eq_true]

end Sys2Proof.Machine
end

