-- ==== Sys2Proof/Laws/State.lean ====
section
/-! SUPPORT. One lemma for each field under each update of the state, true by rfl, so that no proof unfolds a record
update; and what a read of a register, a byte or a pixel depends on. -/

namespace Sys2Proof.Machine

variable (s : State)

/-! ### `setV` -/

@[simp] theorem State.setV_v (r : Reg) (b : Byte) : (s.setV r b).v = s.v.set r b := rfl
@[simp] theorem State.setV_index (r : Reg) (b : Byte) : (s.setV r b).index = s.index := rfl
@[simp] theorem State.setV_pc (r : Reg) (b : Byte) : (s.setV r b).pc = s.pc := rfl
@[simp] theorem State.setV_stack (r : Reg) (b : Byte) : (s.setV r b).stack = s.stack := rfl
@[simp] theorem State.setV_dt (r : Reg) (b : Byte) : (s.setV r b).dt = s.dt := rfl
@[simp] theorem State.setV_st (r : Reg) (b : Byte) : (s.setV r b).st = s.st := rfl
@[simp] theorem State.setV_mem (r : Reg) (b : Byte) : (s.setV r b).mem = s.mem := rfl
@[simp] theorem State.setV_fb (r : Reg) (b : Byte) : (s.setV r b).fb = s.fb := rfl
@[simp] theorem State.setV_keys (r : Reg) (b : Byte) : (s.setV r b).keys = s.keys := rfl
@[simp] theorem State.setV_changed (r : Reg) (b : Byte) : (s.setV r b).changed = s.changed := rfl
@[simp] theorem State.setV_status (r : Reg) (b : Byte) : (s.setV r b).status = s.status := rfl
@[simp] theorem State.setV_draws (r : Reg) (b : Byte) : (s.setV r b).draws = s.draws := rfl

/-! ### `setIndex` -/

@[simp] theorem State.setIndex_v (w : Word) : (s.setIndex w).v = s.v := rfl
@[simp] theorem State.setIndex_index (w : Word) : (s.setIndex w).index = w := rfl
@[simp] theorem State.setIndex_pc (w : Word) : (s.setIndex w).pc = s.pc := rfl
@[simp] theorem State.setIndex_stack (w : Word) : (s.setIndex w).stack = s.stack := rfl
@[simp] theorem State.setIndex_dt (w : Word) : (s.setIndex w).dt = s.dt := rfl
@[simp] theorem State.setIndex_st (w : Word) : (s.setIndex w).st = s.st := rfl
@[simp] theorem State.setIndex_mem (w : Word) : (s.setIndex w).mem = s.mem := rfl
@[simp] theorem State.setIndex_fb (w : Word) : (s.setIndex w).fb = s.fb := rfl
@[simp] theorem State.setIndex_keys (w : Word) : (s.setIndex w).keys = s.keys := rfl
@[simp] theorem State.setIndex_changed (w : Word) : (s.setIndex w).changed = s.changed := rfl
@[simp] theorem State.setIndex_status (w : Word) : (s.setIndex w).status = s.status := rfl
@[simp] theorem State.setIndex_draws (w : Word) : (s.setIndex w).draws = s.draws := rfl

/-! ### `setPc` -/

@[simp] theorem State.setPc_v (w : Word) : (s.setPc w).v = s.v := rfl
@[simp] theorem State.setPc_index (w : Word) : (s.setPc w).index = s.index := rfl
@[simp] theorem State.setPc_pc (w : Word) : (s.setPc w).pc = w := rfl
@[simp] theorem State.setPc_stack (w : Word) : (s.setPc w).stack = s.stack := rfl
@[simp] theorem State.setPc_dt (w : Word) : (s.setPc w).dt = s.dt := rfl
@[simp] theorem State.setPc_st (w : Word) : (s.setPc w).st = s.st := rfl
@[simp] theorem State.setPc_mem (w : Word) : (s.setPc w).mem = s.mem := rfl
@[simp] theorem State.setPc_fb (w : Word) : (s.setPc w).fb = s.fb := rfl
@[simp] theorem State.setPc_keys (w : Word) : (s.setPc w).keys = s.keys := rfl
@[simp] theorem State.setPc_changed (w : Word) : (s.setPc w).changed = s.changed := rfl
@[simp] theorem State.setPc_status (w : Word) : (s.setPc w).status = s.status := rfl
@[simp] theorem State.setPc_draws (w : Word) : (s.setPc w).draws = s.draws := rfl

/-! ### `setStack` -/

@[simp] theorem State.setStack_v (ws : List Word) : (s.setStack ws).v = s.v := rfl
@[simp] theorem State.setStack_index (ws : List Word) : (s.setStack ws).index = s.index := rfl
@[simp] theorem State.setStack_pc (ws : List Word) : (s.setStack ws).pc = s.pc := rfl
@[simp] theorem State.setStack_stack (ws : List Word) : (s.setStack ws).stack = ws := rfl
@[simp] theorem State.setStack_dt (ws : List Word) : (s.setStack ws).dt = s.dt := rfl
@[simp] theorem State.setStack_st (ws : List Word) : (s.setStack ws).st = s.st := rfl
@[simp] theorem State.setStack_mem (ws : List Word) : (s.setStack ws).mem = s.mem := rfl
@[simp] theorem State.setStack_fb (ws : List Word) : (s.setStack ws).fb = s.fb := rfl
@[simp] theorem State.setStack_keys (ws : List Word) : (s.setStack ws).keys = s.keys := rfl
@[simp] theorem State.setStack_changed (ws : List Word) : (s.setStack ws).changed = s.changed := rfl
@[simp] theorem State.setStack_status (ws : List Word) : (s.setStack ws).status = s.status := rfl
@[simp] theorem State.setStack_draws (ws : List Word) : (s.setStack ws).draws = s.draws := rfl

/-! ### `setTimerPair` -/

@[simp] theorem State.setTimerPair_v (d t : Byte) : (s.setTimerPair d t).v = s.v := rfl
@[simp] theorem State.setTimerPair_index (d t : Byte) : (s.setTimerPair d t).index = s.index := rfl
@[simp] theorem State.setTimerPair_pc (d t : Byte) : (s.setTimerPair d t).pc = s.pc := rfl
@[simp] theorem State.setTimerPair_stack (d t : Byte) : (s.setTimerPair d t).stack = s.stack := rfl
@[simp] theorem State.setTimerPair_dt (d t : Byte) : (s.setTimerPair d t).dt = d := rfl
@[simp] theorem State.setTimerPair_st (d t : Byte) : (s.setTimerPair d t).st = t := rfl
@[simp] theorem State.setTimerPair_mem (d t : Byte) : (s.setTimerPair d t).mem = s.mem := rfl
@[simp] theorem State.setTimerPair_fb (d t : Byte) : (s.setTimerPair d t).fb = s.fb := rfl
@[simp] theorem State.setTimerPair_keys (d t : Byte) : (s.setTimerPair d t).keys = s.keys := rfl
@[simp] theorem State.setTimerPair_changed (d t : Byte) : (s.setTimerPair d t).changed = s.changed := rfl
@[simp] theorem State.setTimerPair_status (d t : Byte) : (s.setTimerPair d t).status = s.status := rfl
@[simp] theorem State.setTimerPair_draws (d t : Byte) : (s.setTimerPair d t).draws = s.draws := rfl

/-! ### `setMem` -/

@[simp] theorem State.setMem_v (m : Memory) : (s.setMem m).v = s.v := rfl
@[simp] theorem State.setMem_index (m : Memory) : (s.setMem m).index = s.index := rfl
@[simp] theorem State.setMem_pc (m : Memory) : (s.setMem m).pc = s.pc := rfl
@[simp] theorem State.setMem_stack (m : Memory) : (s.setMem m).stack = s.stack := rfl
@[simp] theorem State.setMem_dt (m : Memory) : (s.setMem m).dt = s.dt := rfl
@[simp] theorem State.setMem_st (m : Memory) : (s.setMem m).st = s.st := rfl
@[simp] theorem State.setMem_mem (m : Memory) : (s.setMem m).mem = m := rfl
@[simp] theorem State.setMem_fb (m : Memory) : (s.setMem m).fb = s.fb := rfl
@[simp] theorem State.setMem_keys (m : Memory) : (s.setMem m).keys = s.keys := rfl
@[simp] theorem State.setMem_changed (m : Memory) : (s.setMem m).changed = s.changed := rfl
@[simp] theorem State.setMem_status (m : Memory) : (s.setMem m).status = s.status := rfl
@[simp] theorem State.setMem_draws (m : Memory) : (s.setMem m).draws = s.draws := rfl

/-! ### `setFb` -/

@[simp] theorem State.setFb_v (f : Framebuffer) : (s.setFb f).v = s.v := rfl
@[simp] theorem State.setFb_index (f : Framebuffer) : (s.setFb f).index = s.index := rfl
@[simp] theorem State.setFb_pc (f : Framebuffer) : (s.setFb f).pc = s.pc := rfl
@[simp] theorem State.setFb_stack (f : Framebuffer) : (s.setFb f).stack = s.stack := rfl
@[simp] theorem State.setFb_dt (f : Framebuffer) : (s.setFb f).dt = s.dt := rfl
@[simp] theorem State.setFb_st (f : Framebuffer) : (s.setFb f).st = s.st := rfl
@[simp] theorem State.setFb_mem (f : Framebuffer) : (s.setFb f).mem = s.mem := rfl
@[simp] theorem State.setFb_fb (f : Framebuffer) : (s.setFb f).fb = f := rfl
@[simp] theorem State.setFb_keys (f : Framebuffer) : (s.setFb f).keys = s.keys := rfl
@[simp] theorem State.setFb_changed (f : Framebuffer) : (s.setFb f).changed = s.changed := rfl
@[simp] theorem State.setFb_status (f : Framebuffer) : (s.setFb f).status = s.status := rfl
@[simp] theorem State.setFb_draws (f : Framebuffer) : (s.setFb f).draws = s.draws := rfl

/-! ### `setKeys` -/

@[simp] theorem State.setKeys_v (k : Vector Bool 16) : (s.setKeys k).v = s.v := rfl
@[simp] theorem State.setKeys_index (k : Vector Bool 16) : (s.setKeys k).index = s.index := rfl
@[simp] theorem State.setKeys_pc (k : Vector Bool 16) : (s.setKeys k).pc = s.pc := rfl
@[simp] theorem State.setKeys_stack (k : Vector Bool 16) : (s.setKeys k).stack = s.stack := rfl
@[simp] theorem State.setKeys_dt (k : Vector Bool 16) : (s.setKeys k).dt = s.dt := rfl
@[simp] theorem State.setKeys_st (k : Vector Bool 16) : (s.setKeys k).st = s.st := rfl
@[simp] theorem State.setKeys_mem (k : Vector Bool 16) : (s.setKeys k).mem = s.mem := rfl
@[simp] theorem State.setKeys_fb (k : Vector Bool 16) : (s.setKeys k).fb = s.fb := rfl
@[simp] theorem State.setKeys_keys (k : Vector Bool 16) : (s.setKeys k).keys = k := rfl
@[simp] theorem State.setKeys_changed (k : Vector Bool 16) : (s.setKeys k).changed = s.changed := rfl
@[simp] theorem State.setKeys_status (k : Vector Bool 16) : (s.setKeys k).status = s.status := rfl
@[simp] theorem State.setKeys_draws (k : Vector Bool 16) : (s.setKeys k).draws = s.draws := rfl

/-! ### `setChanged` -/

@[simp] theorem State.setChanged_v (b : Bool) : (s.setChanged b).v = s.v := rfl
@[simp] theorem State.setChanged_index (b : Bool) : (s.setChanged b).index = s.index := rfl
@[simp] theorem State.setChanged_pc (b : Bool) : (s.setChanged b).pc = s.pc := rfl
@[simp] theorem State.setChanged_stack (b : Bool) : (s.setChanged b).stack = s.stack := rfl
@[simp] theorem State.setChanged_dt (b : Bool) : (s.setChanged b).dt = s.dt := rfl
@[simp] theorem State.setChanged_st (b : Bool) : (s.setChanged b).st = s.st := rfl
@[simp] theorem State.setChanged_mem (b : Bool) : (s.setChanged b).mem = s.mem := rfl
@[simp] theorem State.setChanged_fb (b : Bool) : (s.setChanged b).fb = s.fb := rfl
@[simp] theorem State.setChanged_keys (b : Bool) : (s.setChanged b).keys = s.keys := rfl
@[simp] theorem State.setChanged_changed (b : Bool) : (s.setChanged b).changed = b := rfl
@[simp] theorem State.setChanged_status (b : Bool) : (s.setChanged b).status = s.status := rfl
@[simp] theorem State.setChanged_draws (b : Bool) : (s.setChanged b).draws = s.draws := rfl

/-! ### `setStatus` -/

@[simp] theorem State.setStatus_v (q : Status) : (s.setStatus q).v = s.v := rfl
@[simp] theorem State.setStatus_index (q : Status) : (s.setStatus q).index = s.index := rfl
@[simp] theorem State.setStatus_pc (q : Status) : (s.setStatus q).pc = s.pc := rfl
@[simp] theorem State.setStatus_stack (q : Status) : (s.setStatus q).stack = s.stack := rfl
@[simp] theorem State.setStatus_dt (q : Status) : (s.setStatus q).dt = s.dt := rfl
@[simp] theorem State.setStatus_st (q : Status) : (s.setStatus q).st = s.st := rfl
@[simp] theorem State.setStatus_mem (q : Status) : (s.setStatus q).mem = s.mem := rfl
@[simp] theorem State.setStatus_fb (q : Status) : (s.setStatus q).fb = s.fb := rfl
@[simp] theorem State.setStatus_keys (q : Status) : (s.setStatus q).keys = s.keys := rfl
@[simp] theorem State.setStatus_changed (q : Status) : (s.setStatus q).changed = s.changed := rfl
@[simp] theorem State.setStatus_status (q : Status) : (s.setStatus q).status = q := rfl
@[simp] theorem State.setStatus_draws (q : Status) : (s.setStatus q).draws = s.draws := rfl

/-! ### `setDraws` -/

@[simp] theorem State.setDraws_v (n : Nat) : (s.setDraws n).v = s.v := rfl
@[simp] theorem State.setDraws_index (n : Nat) : (s.setDraws n).index = s.index := rfl
@[simp] theorem State.setDraws_pc (n : Nat) : (s.setDraws n).pc = s.pc := rfl
@[simp] theorem State.setDraws_stack (n : Nat) : (s.setDraws n).stack = s.stack := rfl
@[simp] theorem State.setDraws_dt (n : Nat) : (s.setDraws n).dt = s.dt := rfl
@[simp] theorem State.setDraws_st (n : Nat) : (s.setDraws n).st = s.st := rfl
@[simp] theorem State.setDraws_mem (n : Nat) : (s.setDraws n).mem = s.mem := rfl
@[simp] theorem State.setDraws_fb (n : Nat) : (s.setDraws n).fb = s.fb := rfl
@[simp] theorem State.setDraws_keys (n : Nat) : (s.setDraws n).keys = s.keys := rfl
@[simp] theorem State.setDraws_changed (n : Nat) : (s.setDraws n).changed = s.changed := rfl
@[simp] theorem State.setDraws_status (n : Nat) : (s.setDraws n).status = s.status := rfl
@[simp] theorem State.setDraws_draws (n : Nat) : (s.setDraws n).draws = n := rfl

/-! ### `drawn` -/

@[simp] theorem State.drawn_v : s.drawn.v = s.v := rfl
@[simp] theorem State.drawn_index : s.drawn.index = s.index := rfl
@[simp] theorem State.drawn_pc : s.drawn.pc = s.pc := rfl
@[simp] theorem State.drawn_stack : s.drawn.stack = s.stack := rfl
@[simp] theorem State.drawn_dt : s.drawn.dt = s.dt := rfl
@[simp] theorem State.drawn_st : s.drawn.st = s.st := rfl
@[simp] theorem State.drawn_mem : s.drawn.mem = s.mem := rfl
@[simp] theorem State.drawn_fb : s.drawn.fb = s.fb := rfl
@[simp] theorem State.drawn_keys : s.drawn.keys = s.keys := rfl
@[simp] theorem State.drawn_changed : s.drawn.changed = s.changed := rfl
@[simp] theorem State.drawn_status : s.drawn.status = s.status := rfl
@[simp] theorem State.drawn_draws : s.drawn.draws = s.draws + 1 := rfl

/-! ### `raise` -/

@[simp] theorem State.raise_v (k : FaultKind) (i : Word) : (s.raise k i).v = s.v := rfl
@[simp] theorem State.raise_index (k : FaultKind) (i : Word) : (s.raise k i).index = s.index := rfl
@[simp] theorem State.raise_pc (k : FaultKind) (i : Word) : (s.raise k i).pc = s.pc := rfl
@[simp] theorem State.raise_stack (k : FaultKind) (i : Word) : (s.raise k i).stack = s.stack := rfl
@[simp] theorem State.raise_dt (k : FaultKind) (i : Word) : (s.raise k i).dt = s.dt := rfl
@[simp] theorem State.raise_st (k : FaultKind) (i : Word) : (s.raise k i).st = s.st := rfl
@[simp] theorem State.raise_mem (k : FaultKind) (i : Word) : (s.raise k i).mem = s.mem := rfl
@[simp] theorem State.raise_fb (k : FaultKind) (i : Word) : (s.raise k i).fb = s.fb := rfl
@[simp] theorem State.raise_keys (k : FaultKind) (i : Word) : (s.raise k i).keys = s.keys := rfl
@[simp] theorem State.raise_changed (k : FaultKind) (i : Word) : (s.raise k i).changed = s.changed := rfl
@[simp] theorem State.raise_status (k : FaultKind) (i : Word) : (s.raise k i).status = .faulted k i := rfl
@[simp] theorem State.raise_draws (k : FaultKind) (i : Word) : (s.raise k i).draws = s.draws := rfl

/-! ### `advance` -/

@[simp] theorem State.advance_v : s.advance.v = s.v := rfl
@[simp] theorem State.advance_index : s.advance.index = s.index := rfl
@[simp] theorem State.advance_pc : s.advance.pc = s.pc + 2 := rfl
@[simp] theorem State.advance_stack : s.advance.stack = s.stack := rfl
@[simp] theorem State.advance_dt : s.advance.dt = s.dt := rfl
@[simp] theorem State.advance_st : s.advance.st = s.st := rfl
@[simp] theorem State.advance_mem : s.advance.mem = s.mem := rfl
@[simp] theorem State.advance_fb : s.advance.fb = s.fb := rfl
@[simp] theorem State.advance_keys : s.advance.keys = s.keys := rfl
@[simp] theorem State.advance_changed : s.advance.changed = s.changed := rfl
@[simp] theorem State.advance_status : s.advance.status = s.status := rfl
@[simp] theorem State.advance_draws : s.advance.draws = s.draws := rfl

/-! ### `jumpTo` -/

@[simp] theorem State.jumpTo_v (w : Word) : (s.jumpTo w).v = s.v := rfl
@[simp] theorem State.jumpTo_index (w : Word) : (s.jumpTo w).index = s.index := rfl
@[simp] theorem State.jumpTo_pc (w : Word) : (s.jumpTo w).pc = w := rfl
@[simp] theorem State.jumpTo_stack (w : Word) : (s.jumpTo w).stack = s.stack := rfl
@[simp] theorem State.jumpTo_dt (w : Word) : (s.jumpTo w).dt = s.dt := rfl
@[simp] theorem State.jumpTo_st (w : Word) : (s.jumpTo w).st = s.st := rfl
@[simp] theorem State.jumpTo_mem (w : Word) : (s.jumpTo w).mem = s.mem := rfl
@[simp] theorem State.jumpTo_fb (w : Word) : (s.jumpTo w).fb = s.fb := rfl
@[simp] theorem State.jumpTo_keys (w : Word) : (s.jumpTo w).keys = s.keys := rfl
@[simp] theorem State.jumpTo_changed (w : Word) : (s.jumpTo w).changed = s.changed := rfl
@[simp] theorem State.jumpTo_status (w : Word) : (s.jumpTo w).status = s.status := rfl
@[simp] theorem State.jumpTo_draws (w : Word) : (s.jumpTo w).draws = s.draws := rfl

/-! ### `push` -/

@[simp] theorem State.push_v (w : Word) : (s.push w).v = s.v := rfl
@[simp] theorem State.push_index (w : Word) : (s.push w).index = s.index := rfl
@[simp] theorem State.push_pc (w : Word) : (s.push w).pc = s.pc := rfl
@[simp] theorem State.push_stack (w : Word) : (s.push w).stack = s.stack ++ [w] := rfl
@[simp] theorem State.push_dt (w : Word) : (s.push w).dt = s.dt := rfl
@[simp] theorem State.push_st (w : Word) : (s.push w).st = s.st := rfl
@[simp] theorem State.push_mem (w : Word) : (s.push w).mem = s.mem := rfl
@[simp] theorem State.push_fb (w : Word) : (s.push w).fb = s.fb := rfl
@[simp] theorem State.push_keys (w : Word) : (s.push w).keys = s.keys := rfl
@[simp] theorem State.push_changed (w : Word) : (s.push w).changed = s.changed := rfl
@[simp] theorem State.push_status (w : Word) : (s.push w).status = s.status := rfl
@[simp] theorem State.push_draws (w : Word) : (s.push w).draws = s.draws := rfl

/-! ### `popped` -/

@[simp] theorem State.popped_v : s.popped.v = s.v := rfl
@[simp] theorem State.popped_index : s.popped.index = s.index := rfl
@[simp] theorem State.popped_pc : s.popped.pc = s.pc := rfl
@[simp] theorem State.popped_stack : s.popped.stack = s.stack.dropLast := rfl
@[simp] theorem State.popped_dt : s.popped.dt = s.dt := rfl
@[simp] theorem State.popped_st : s.popped.st = s.st := rfl
@[simp] theorem State.popped_mem : s.popped.mem = s.mem := rfl
@[simp] theorem State.popped_fb : s.popped.fb = s.fb := rfl
@[simp] theorem State.popped_keys : s.popped.keys = s.keys := rfl
@[simp] theorem State.popped_changed : s.popped.changed = s.changed := rfl
@[simp] theorem State.popped_status : s.popped.status = s.status := rfl
@[simp] theorem State.popped_draws : s.popped.draws = s.draws := rfl

/-! ### `setDrawFlags` -/

@[simp] theorem State.setDrawFlags_v (b : Bool) : (s.setDrawFlags b).v = s.v.set 15 (flagByte b) := rfl
@[simp] theorem State.setDrawFlags_index (b : Bool) : (s.setDrawFlags b).index = s.index := rfl
@[simp] theorem State.setDrawFlags_pc (b : Bool) : (s.setDrawFlags b).pc = s.pc := rfl
@[simp] theorem State.setDrawFlags_stack (b : Bool) : (s.setDrawFlags b).stack = s.stack := rfl
@[simp] theorem State.setDrawFlags_dt (b : Bool) : (s.setDrawFlags b).dt = s.dt := rfl
@[simp] theorem State.setDrawFlags_st (b : Bool) : (s.setDrawFlags b).st = s.st := rfl
@[simp] theorem State.setDrawFlags_mem (b : Bool) : (s.setDrawFlags b).mem = s.mem := rfl
@[simp] theorem State.setDrawFlags_fb (b : Bool) : (s.setDrawFlags b).fb = s.fb := rfl
@[simp] theorem State.setDrawFlags_keys (b : Bool) : (s.setDrawFlags b).keys = s.keys := rfl
@[simp] theorem State.setDrawFlags_changed (b : Bool) : (s.setDrawFlags b).changed = b := rfl
@[simp] theorem State.setDrawFlags_status (b : Bool) : (s.setDrawFlags b).status = s.status := rfl
@[simp] theorem State.setDrawFlags_draws (b : Bool) : (s.setDrawFlags b).draws = s.draws := rfl

/-! ### `clearChanged` -/

@[simp] theorem State.clearChanged_v : s.clearChanged.v = s.v := rfl
@[simp] theorem State.clearChanged_index : s.clearChanged.index = s.index := rfl
@[simp] theorem State.clearChanged_pc : s.clearChanged.pc = s.pc := rfl
@[simp] theorem State.clearChanged_stack : s.clearChanged.stack = s.stack := rfl
@[simp] theorem State.clearChanged_dt : s.clearChanged.dt = s.dt := rfl
@[simp] theorem State.clearChanged_st : s.clearChanged.st = s.st := rfl
@[simp] theorem State.clearChanged_mem : s.clearChanged.mem = s.mem := rfl
@[simp] theorem State.clearChanged_fb : s.clearChanged.fb = s.fb := rfl
@[simp] theorem State.clearChanged_keys : s.clearChanged.keys = s.keys := rfl
@[simp] theorem State.clearChanged_changed : s.clearChanged.changed = false := rfl
@[simp] theorem State.clearChanged_status : s.clearChanged.status = s.status := rfl
@[simp] theorem State.clearChanged_draws : s.clearChanged.draws = s.draws := rfl

/-! ### `stepTimers` -/

@[simp] theorem State.stepTimers_v : s.stepTimers.v = s.v := rfl
@[simp] theorem State.stepTimers_index : s.stepTimers.index = s.index := rfl
@[simp] theorem State.stepTimers_pc : s.stepTimers.pc = s.pc := rfl
@[simp] theorem State.stepTimers_stack : s.stepTimers.stack = s.stack := rfl
@[simp] theorem State.stepTimers_dt : s.stepTimers.dt = countDown s.dt := rfl
@[simp] theorem State.stepTimers_st : s.stepTimers.st = countDown s.st := rfl
@[simp] theorem State.stepTimers_mem : s.stepTimers.mem = s.mem := rfl
@[simp] theorem State.stepTimers_fb : s.stepTimers.fb = s.fb := rfl
@[simp] theorem State.stepTimers_keys : s.stepTimers.keys = s.keys := rfl
@[simp] theorem State.stepTimers_changed : s.stepTimers.changed = s.changed := rfl
@[simp] theorem State.stepTimers_status : s.stepTimers.status = s.status := rfl
@[simp] theorem State.stepTimers_draws : s.stepTimers.draws = s.draws := rfl

/-! ### `skipIf` -/

@[simp] theorem State.skipIf_v (c : Bool) : (s.skipIf c).v = s.v := by cases c <;> rfl
@[simp] theorem State.skipIf_index (c : Bool) : (s.skipIf c).index = s.index := by cases c <;> rfl
@[simp] theorem State.skipIf_pc (c : Bool) : (s.skipIf c).pc = if c then s.pc + 4 else s.pc + 2 := by cases c <;> rfl
@[simp] theorem State.skipIf_stack (c : Bool) : (s.skipIf c).stack = s.stack := by cases c <;> rfl
@[simp] theorem State.skipIf_dt (c : Bool) : (s.skipIf c).dt = s.dt := by cases c <;> rfl
@[simp] theorem State.skipIf_st (c : Bool) : (s.skipIf c).st = s.st := by cases c <;> rfl
@[simp] theorem State.skipIf_mem (c : Bool) : (s.skipIf c).mem = s.mem := by cases c <;> rfl
@[simp] theorem State.skipIf_fb (c : Bool) : (s.skipIf c).fb = s.fb := by cases c <;> rfl
@[simp] theorem State.skipIf_keys (c : Bool) : (s.skipIf c).keys = s.keys := by cases c <;> rfl
@[simp] theorem State.skipIf_changed (c : Bool) : (s.skipIf c).changed = s.changed := by cases c <;> rfl
@[simp] theorem State.skipIf_status (c : Bool) : (s.skipIf c).status = s.status := by cases c <;> rfl
@[simp] theorem State.skipIf_draws (c : Bool) : (s.skipIf c).draws = s.draws := by cases c <;> rfl

/-! ### Reads -/

theorem State.readV_of_v {s t : State} (h : t.v = s.v) (r : Reg) : t.readV r = s.readV r := by
  simp [State.readV, h]

theorem State.readMem_of_mem {s t : State} (h : t.mem = s.mem) (a : Nat) : t.readMem a = s.readMem a := by
  simp [State.readMem, h]

theorem State.pixel_of_fb {s t : State} (h : t.fb = s.fb) (y : Fin 32) (x : Fin 64) : t.pixel y x = s.pixel y x := by
  simp [State.pixel, h]

/-- A register reads as the value last written to it, and a write leaves the others. -/
theorem State.readV_setV (r q : Reg) (b : Byte) : (s.setV r b).readV q = if r = q then b else s.readV q := by
  simp [State.readV, Vector.get_eq_getElem, Vector.getElem_set, Fin.ext_iff]

/-- A pixel reads as the value last written to it, and a write leaves the others. -/
theorem Framebuffer.pixel_setPixel (f : Framebuffer) (y y' : Fin 32) (x x' : Fin 64) (b : Bool) :
    Framebuffer.pixel (Framebuffer.setPixel f y x b) y' x' =
      if y = y' ∧ x = x' then b else Framebuffer.pixel f y' x' := by
  simp only [Framebuffer.pixel, Framebuffer.setPixel, Vector.get_eq_getElem, Vector.getElem_set]
  split <;> simp_all [Fin.ext_iff, Vector.getElem_set]

/-- Two registers files that read alike at every index are equal, so a state is determined by its reads. -/
theorem v_ext {a b : Vector Byte 16} (h : ∀ r : Reg, a.get r = b.get r) : a = b := by
  apply Vector.ext
  intro i hi
  exact h ⟨i, hi⟩

/-- Two framebuffers with the same pixels are equal. -/
theorem Framebuffer.ext_pixel {f g : Framebuffer} (h : ∀ y x, Framebuffer.pixel f y x = Framebuffer.pixel g y x) :
    f = g := by
  apply Vector.ext
  intro i hi
  apply Vector.ext
  intro j hj
  exact h ⟨i, hi⟩ ⟨j, hj⟩

/-- Every pixel of the blank screen is 0. -/
@[simp] theorem pixel_blankScreen (y : Fin 32) (x : Fin 64) : Framebuffer.pixel blankScreen y x = false := by
  simp [Framebuffer.pixel, blankScreen, Vector.get_eq_getElem]

end Sys2Proof.Machine
end

