-- ==== Sys2Proof/Laws/Ops.lean ====
section
/-! SUPPORT. One lemma for each shared operation that says once what it can do, to be cited in place of unfolding it. -/

namespace Sys2Proof.Machine

/-! ### The stack -/

/-- The top after a push is the word pushed. -/
@[simp] theorem State.top_push (s : State) (w : Word) : (s.push w).top = some w := by simp [State.top]

/-- A pop after a push gives the stack back. -/
@[simp] theorem State.stack_popped_push (s : State) (w : Word) : (s.push w).popped.stack = s.stack := by simp

/-- There is no top exactly when the stack is empty. -/
theorem State.top_eq_none {s : State} : s.top = none ↔ s.stack = [] := by simp [State.top]

/-- The top and what is under it make the stack. -/
theorem State.top_eq_some {s : State} {w : Word} : s.top = some w ↔ s.stack = s.popped.stack ++ [w] := by
  constructor
  · intro h
    have := List.dropLast_append_getLast? w (l := s.stack) h
    simpa using this.symm
  · intro h
    rw [State.top, h]
    simp

/-- A stack within the depth and not full has room for one more. -/
theorem depthAdmits_succ {d : StackDepth} {len : Nat} (h : depthAdmits d len = true) (hf : depthReached d len = false) :
    depthAdmits d (len + 1) = true := by
  cases d with
  | unbounded => rfl
  | bounded k =>
    simp only [depthAdmits, depthReached, decide_eq_true_eq, beq_eq_false_iff_ne] at *
    omega

/-- A shorter stack is within the depth too. -/
theorem depthAdmits_mono {d : StackDepth} {len len' : Nat} (hle : len' ≤ len) (h : depthAdmits d len = true) :
    depthAdmits d len' = true := by
  cases d with
  | unbounded => rfl
  | bounded k =>
    simp only [depthAdmits, decide_eq_true_eq] at *
    omega

/-- An empty stack is never full: the depth is at least 1 (R6). -/
theorem depthReached_zero (d : StackDepth) : depthReached d 0 = false := by cases d <;> rfl

/-- Every depth admits the sentinel (R6, R38). -/
theorem depthAdmits_one (d : StackDepth) : depthAdmits d 1 = true := by
  cases d with
  | unbounded => rfl
  | bounded k => simp [depthAdmits]

/-! ### Timers and beep -/

/-- The countdown as a number: one less, and 0 stays 0. -/
theorem toNat_countDown (t : Byte) : (countDown t).toNat = t.toNat - 1 := by
  unfold countDown
  split
  · rename_i h
    have : t.toNat ≠ 0 := fun h0 => h (by apply BitVec.eq_of_toNat_eq; simpa using h0)
    have := t.isLt
    simp [BitVec.toNat_sub]
    omega
  · simp_all

/-- The beep is given exactly when ST is 1. -/
theorem beepOf_eq (t : Byte) : beepOf t = decide (t = 1) := by
  rw [beepOf, ← Bool.decide_and, decide_eq_decide, countDown]
  constructor
  · rintro ⟨h, h0⟩
    rw [if_pos h] at h0
    bv_omega
  · rintro rfl
    decide

/-! ### Key skips -/

/-- A number up to 15 names its key. -/
theorem State.readKey_of_lt (s : State) {k : Nat} (h : k < 16) : s.readKey k = some (s.keys.get ⟨k, h⟩) := dif_pos h

/-- A number above 15 names no key. -/
theorem State.readKey_of_ge (s : State) {k : Nat} (h : 16 ≤ k) : s.readKey k = none := dif_neg (by omega)

/-- A key skip either tests the key the register names, or raises `KeyRange` and does nothing else. -/
theorem State.skipOnKey_cases (s : State) (x : Reg) (wanted : Bool) :
    (∃ h : (s.readV x).toNat < 16,
      s.skipOnKey x wanted = s.skipIf (s.keys.get ⟨(s.readV x).toNat, h⟩ == wanted)) ∨
    (16 ≤ (s.readV x).toNat ∧ s.skipOnKey x wanted = s.raise .keyRange (wordOfByte (s.readV x))) := by
  unfold State.skipOnKey
  by_cases h : (s.readV x).toNat < 16
  · rw [s.readKey_of_lt h]
    exact .inl ⟨h, rfl⟩
  · rw [s.readKey_of_ge (by omega)]
    exact .inr ⟨by omega, rfl⟩

/-! ### The collision detector -/

/-- A sprite is out of range exactly when it has a row and its last row lies above address 4095. -/
theorem State.spriteOutOfRange_iff (s : State) (n : Nibble) :
    s.spriteOutOfRange n = true ↔ 1 ≤ n.toNat ∧ 4095 < s.index.toNat + n.toNat - 1 := by
  rw [State.spriteOutOfRange, Bool.and_eq_true, decide_eq_true_iff, decide_eq_true_iff]
  rfl

/-- The column of an offset, as a number. -/
@[simp] theorem val_wrapColumn (x0 c : Nat) : (wrapColumn x0 c).val = (x0 + c) % 64 := rfl

/-- The row of an offset, as a number. -/
@[simp] theorem val_wrapRow (y0 r : Nat) : (wrapRow y0 r).val = (y0 + r) % 32 := rfl

/-- One pixel update: the target pixel is XORed with the sprite bit, every other pixel is left. -/
theorem pixel_drawPixel (b : Byte) (yy : Fin 32) (x0 : Nat) (acc : Framebuffer × Bool) (c : Nat) (y : Fin 32) (x : Fin 64) :
    Framebuffer.pixel (drawPixel b yy x0 acc c).1 y x =
      if yy = y ∧ wrapColumn x0 c = x then Bool.xor (Framebuffer.pixel acc.1 y x) (spriteBit b c)
      else Framebuffer.pixel acc.1 y x := by
  simp only [drawPixel, Framebuffer.pixel_setPixel]
  split
  · rename_i h
    rw [h.1, h.2]
  · rfl

/-- One pixel update: the sticky bit is set exactly by a sprite bit of 1, whatever was on the screen. -/
theorem flag_drawPixel (b : Byte) (yy : Fin 32) (x0 : Nat) (acc : Framebuffer × Bool) (c : Nat) :
    (drawPixel b yy x0 acc c).2 = (acc.2 || spriteBit b c) := by
  simp only [drawPixel]
  cases Framebuffer.pixel acc.1 yy (wrapColumn x0 c) <;> cases spriteBit b c <;> cases acc.2 <;> rfl

/-- One row: the sticky bit is set exactly by a sprite byte other than 0. -/
theorem flag_drawRow (b : Byte) (yy : Fin 32) (x0 : Nat) (acc : Framebuffer × Bool) :
    (drawRow b yy x0 acc).2 = (acc.2 || decide (b ≠ 0)) := by
  have fold : ∀ (l : List Nat) (acc : Framebuffer × Bool),
      (l.foldl (drawPixel b yy x0) acc).2 = (acc.2 || l.any (spriteBit b)) := by
    intro l
    induction l with
    | nil => simp
    | cons c l ih => intro acc; simp [ih, flag_drawPixel, Bool.or_assoc]
  have bits : ∀ b : Byte, (List.range 8).any (spriteBit b) = decide (b ≠ 0) := by decide
  rw [drawRow, fold, bits]

/-- All rows: the sticky bit is set exactly when some sprite byte is not 0. -/
theorem flag_drawRows (s : State) (x0 y0 n : Nat) :
    (drawRows s x0 y0 n).2 = true ↔ ∃ r, r < n ∧ s.spriteByte r ≠ 0 := by
  have fold : ∀ (l : List Nat) (acc : Framebuffer × Bool),
      (l.foldl (fun acc r => drawRow (s.spriteByte r) (wrapRow y0 r) x0 acc) acc).2 =
        (acc.2 || l.any fun r => decide (s.spriteByte r ≠ 0)) := by
    intro l
    induction l with
    | nil => simp
    | cons r l ih => intro acc; rw [List.foldl_cons, ih, flag_drawRow]; simp [Bool.or_assoc]
  rw [drawRows, fold]
  simp

/-- Whether the sprite byte has a 1 at column `x` of the framebuffer, drawn from column `x0`. -/
def spriteHits (b : Byte) (x0 : Nat) (x : Fin 64) : Bool :=
  (List.range 8).any fun c => decide (wrapColumn x0 c = x) && spriteBit b c

/-- One row: a pixel is XORed with the one sprite bit that lands on it, if any. -/
theorem pixel_drawRow (b : Byte) (yy : Fin 32) (x0 : Nat) (acc : Framebuffer × Bool) (y : Fin 32) (x : Fin 64) :
    Framebuffer.pixel (drawRow b yy x0 acc).1 y x =
      Bool.xor (Framebuffer.pixel acc.1 y x) (decide (yy = y) && spriteHits b x0 x) := by
  have fold : ∀ (l : List Nat) (acc : Framebuffer × Bool), l.Nodup → (∀ c ∈ l, c < 8) →
      Framebuffer.pixel (l.foldl (drawPixel b yy x0) acc).1 y x = Bool.xor (Framebuffer.pixel acc.1 y x)
        (decide (yy = y) && l.any fun c => decide (wrapColumn x0 c = x) && spriteBit b c) := by
    intro l
    induction l with
    | nil => simp
    | cons c l ih =>
      intro acc hn hc
      rw [List.foldl_cons, ih _ (List.nodup_cons.1 hn).2 fun d hd => hc d (List.mem_cons_of_mem _ hd), pixel_drawPixel]
      by_cases hy : yy = y
      · by_cases hx : wrapColumn x0 c = x
        · have hno : (l.any fun c => decide (wrapColumn x0 c = x) && spriteBit b c) = false := by
            rw [List.any_eq_false]
            intro d hd
            have h1 := hc d (List.mem_cons_of_mem _ hd)
            have h2 := hc c List.mem_cons_self
            have hne : d ≠ c := fun e => (List.nodup_cons.1 hn).1 (e ▸ hd)
            have : wrapColumn x0 d ≠ x := by
              intro e
              rw [← hx] at e
              have := congrArg Fin.val e
              simp at this
              omega
            simp [this]
          simp [hy, hx, hno]
        · simp [hy, hx]
      · simp [hy]
  exact fold _ acc List.nodup_range fun c h => List.mem_range.1 h

/-- All rows: a pixel is XORed with the one sprite bit that lands on it, if any. -/
theorem pixel_drawRows (s : State) (x0 y0 n : Nat) (hn : n < 16) (y : Fin 32) (x : Fin 64) :
    Framebuffer.pixel (drawRows s x0 y0 n).1 y x = Bool.xor (s.pixel y x)
      ((List.range n).any fun r => decide (wrapRow y0 r = y) && spriteHits (s.spriteByte r) x0 x) := by
  have fold : ∀ (l : List Nat) (acc : Framebuffer × Bool), l.Nodup → (∀ r ∈ l, r < 16) →
      Framebuffer.pixel (l.foldl (fun acc r => drawRow (s.spriteByte r) (wrapRow y0 r) x0 acc) acc).1 y x =
        Bool.xor (Framebuffer.pixel acc.1 y x)
          (l.any fun r => decide (wrapRow y0 r = y) && spriteHits (s.spriteByte r) x0 x) := by
    intro l
    induction l with
    | nil => simp
    | cons r l ih =>
      intro acc hn hc
      rw [List.foldl_cons, ih _ (List.nodup_cons.1 hn).2 fun d hd => hc d (List.mem_cons_of_mem _ hd), pixel_drawRow,
        List.any_cons]
      by_cases hy : wrapRow y0 r = y
      · have hno : (l.any fun r => decide (wrapRow y0 r = y) && spriteHits (s.spriteByte r) x0 x) = false := by
          rw [List.any_eq_false]
          intro d hd
          have h1 := hc d (List.mem_cons_of_mem _ hd)
          have h2 := hc r List.mem_cons_self
          have hne : d ≠ r := fun e => (List.nodup_cons.1 hn).1 (e ▸ hd)
          have : wrapRow y0 d ≠ y := by
            intro e
            rw [← hy] at e
            have := congrArg Fin.val e
            simp at this
            omega
          simp [this]
        rw [hno]
        simp
      · simp [hy]
  exact fold _ _ List.nodup_range fun r h => Nat.lt_trans (List.mem_range.1 h) hn

end Sys2Proof.Machine
end

