-- ==== Sys2Proof/Laws/PerInstr.lean ====
section
/-! SUPPORT. A fact about every instruction as syntax, one lemma for each constructor: the word of an instruction lies in the
row of the opcode table it stands for (30_encoding.md R97, R100). -/

namespace Sys2Proof.Laws.RowMatch

/-- The word of the instruction matches the mask and match of its own row. -/
def Statement (i : Instr) : Prop := rowMatches (encode i) (rowOf i) = true

/-- A row whose masked word comes out, as a number, as the match value. -/
theorem of_toNat {i : Instr} (h : (encode i &&& rowMask (rowOf i)).toNat = (rowMatch (rowOf i)).toNat) : Statement i :=
  (rowMatches_iff (encode i) (rowOf i)).mpr h

theorem cls (u : Nibble) : Statement (.cls u) := by
  have := u.isLt
  apply of_toNat
  simp only [rowOf, rowMask, rowMatch, toNat_maskOpLowByte, toNat_encode, encodedNat, BitVec.toNat_ofNat]
  omega

theorem ret (u : Nibble) : Statement (.ret u) := by
  have := u.isLt
  apply of_toNat
  simp only [rowOf, rowMask, rowMatch, toNat_maskOpLowByte, toNat_encode, encodedNat, BitVec.toNat_ofNat]
  omega

theorem sys (nnn : Imm12) : Statement (.sys nnn) := by
  have := nnn.isLt
  apply of_toNat
  simp only [rowOf, rowMask, rowMatch, toNat_maskOp, toNat_encode, encodedNat, BitVec.toNat_ofNat]
  omega

theorem jp (nnn : Imm12) : Statement (.jp nnn) := by
  have := nnn.isLt
  apply of_toNat
  simp only [rowOf, rowMask, rowMatch, toNat_maskOp, toNat_encode, encodedNat, BitVec.toNat_ofNat]
  omega

theorem call (nnn : Imm12) : Statement (.call nnn) := by
  have := nnn.isLt
  apply of_toNat
  simp only [rowOf, rowMask, rowMatch, toNat_maskOp, toNat_encode, encodedNat, BitVec.toNat_ofNat]
  omega

theorem se (x : Reg) (kk : Byte) : Statement (.se x kk) := by
  have := x.isLt; have := kk.isLt
  apply of_toNat
  simp only [rowOf, rowMask, rowMatch, toNat_maskOp, toNat_encode, encodedNat, BitVec.toNat_ofNat]
  omega

theorem sne (x : Reg) (kk : Byte) : Statement (.sne x kk) := by
  have := x.isLt; have := kk.isLt
  apply of_toNat
  simp only [rowOf, rowMask, rowMatch, toNat_maskOp, toNat_encode, encodedNat, BitVec.toNat_ofNat]
  omega

theorem ldImm (x : Reg) (kk : Byte) : Statement (.ldImm x kk) := by
  have := x.isLt; have := kk.isLt
  apply of_toNat
  simp only [rowOf, rowMask, rowMatch, toNat_maskOp, toNat_encode, encodedNat, BitVec.toNat_ofNat]
  omega

theorem addImm (x : Reg) (kk : Byte) : Statement (.addImm x kk) := by
  have := x.isLt; have := kk.isLt
  apply of_toNat
  simp only [rowOf, rowMask, rowMatch, toNat_maskOp, toNat_encode, encodedNat, BitVec.toNat_ofNat]
  omega

theorem ldReg (x y : Reg) : Statement (.ldReg x y) := by
  have := x.isLt; have := y.isLt
  apply of_toNat
  simp only [rowOf, rowMask, rowMatch, toNat_maskOpLowNibble, toNat_encode, encodedNat, BitVec.toNat_ofNat]
  omega

theorem ldI (nnn : Imm12) : Statement (.ldI nnn) := by
  have := nnn.isLt
  apply of_toNat
  simp only [rowOf, rowMask, rowMatch, toNat_maskOp, toNat_encode, encodedNat, BitVec.toNat_ofNat]
  omega

theorem jpV0 (nnn : Imm12) : Statement (.jpV0 nnn) := by
  have := nnn.isLt
  apply of_toNat
  simp only [rowOf, rowMask, rowMatch, toNat_maskOp, toNat_encode, encodedNat, BitVec.toNat_ofNat]
  omega

theorem rnd (x : Reg) (kk : Byte) : Statement (.rnd x kk) := by
  have := x.isLt; have := kk.isLt
  apply of_toNat
  simp only [rowOf, rowMask, rowMatch, toNat_maskOp, toNat_encode, encodedNat, BitVec.toNat_ofNat]
  omega

theorem drw (x y : Reg) (n : Nibble) : Statement (.drw x y n) := by
  have := x.isLt; have := y.isLt; have := n.isLt
  apply of_toNat
  simp only [rowOf, rowMask, rowMatch, toNat_maskOp, toNat_encode, encodedNat, BitVec.toNat_ofNat]
  omega

theorem skp (x : Reg) : Statement (.skp x) := by
  have := x.isLt
  apply of_toNat
  simp only [rowOf, rowMask, rowMatch, toNat_maskOpLowByte, toNat_encode, encodedNat, BitVec.toNat_ofNat]
  omega

theorem sknp (x : Reg) : Statement (.sknp x) := by
  have := x.isLt
  apply of_toNat
  simp only [rowOf, rowMask, rowMatch, toNat_maskOpLowByte, toNat_encode, encodedNat, BitVec.toNat_ofNat]
  omega

theorem illegal5 (u : Imm12) : Statement (.illegal5 u) := by
  have := u.isLt
  apply of_toNat
  simp only [rowOf, rowMask, rowMatch, toNat_maskOp, toNat_encode, encodedNat, BitVec.toNat_ofNat]
  omega

theorem illegal8 (u : Imm12) : Statement (.illegal8 u) := by
  have := u.isLt
  apply of_toNat
  simp only [rowOf, rowMask, rowMatch, toNat_maskOp, toNat_encode, encodedNat, BitVec.toNat_ofNat]
  omega

theorem illegal9 (u : Imm12) : Statement (.illegal9 u) := by
  have := u.isLt
  apply of_toNat
  simp only [rowOf, rowMask, rowMatch, toNat_maskOp, toNat_encode, encodedNat, BitVec.toNat_ofNat]
  omega

theorem illegalE (u : Imm12) : Statement (.illegalE u) := by
  have := u.isLt
  apply of_toNat
  simp only [rowOf, rowMask, rowMatch, toNat_maskOp, toNat_encode, encodedNat, BitVec.toNat_ofNat]
  omega

theorem illegalF (u : Imm12) : Statement (.illegalF u) := by
  have := u.isLt
  apply of_toNat
  simp only [rowOf, rowMask, rowMatch, toNat_maskOp, toNat_encode, encodedNat, BitVec.toNat_ofNat]
  omega

end Sys2Proof.Laws.RowMatch
end

