-- ==== Sys2Proof/Laws/Step.lean ====
section
/-! SUPPORT. What a tick can do, said once: every claim about a step goes through `step_cases` and `exec_cases` in place of
unfolding the step. -/

namespace Sys2Proof.Machine

/-- Every instruction answers a next state. -/
theorem exec_next (i : Instr) (s : State) : ∃ t, exec i s = .next t := by
  cases i <;> exact ⟨_, rfl⟩

/-- An instruction either leaves `status` as it was, or raises a fault and does nothing else. -/
theorem exec_cases {i : Instr} {s t : State} (h : exec i s = .next t) :
    t.status = s.status ∨ ∃ kind info, t = s.raise kind info := by
  cases i <;> injection h with h <;> subst h
  case ret =>
    cases s.top with
    | none => exact .inr ⟨_, _, rfl⟩
    | some w => exact .inl rfl
  case call nnn =>
    by_cases hf : s.stackFull = true
    · exact .inr ⟨_, _, if_pos hf⟩
    · rw [if_neg hf]; exact .inl rfl
  case skp x =>
    rcases s.skipOnKey_cases x true with ⟨_, e⟩ | ⟨_, e⟩ <;> rw [e]
    · exact .inl (by simp)
    · exact .inr ⟨_, _, rfl⟩
  case sknp x =>
    rcases s.skipOnKey_cases x false with ⟨_, e⟩ | ⟨_, e⟩ <;> rw [e]
    · exact .inl (by simp)
    · exact .inr ⟨_, _, rfl⟩
  case drw x y n =>
    by_cases hr : s.spriteOutOfRange n = true
    · exact .inr ⟨_, _, if_pos hr⟩
    · rw [if_neg hr]; exact .inl rfl
  all_goals first
    | exact .inl rfl
    | exact .inl (by simp)
    | exact .inr ⟨_, _, rfl⟩

/-- No instruction writes memory, the keypad or the timers. -/
theorem exec_keeps {i : Instr} {s t : State} (h : exec i s = .next t) :
    t.mem = s.mem ∧ t.keys = s.keys ∧ t.dt = s.dt ∧ t.st = s.st := by
  cases i <;> injection h with h <;> subst h
  case ret => cases s.top <;> simp
  case call nnn => split <;> simp
  case skp x => rcases s.skipOnKey_cases x true with ⟨_, e⟩ | ⟨_, e⟩ <;> simp [e]
  case sknp x => rcases s.skipOnKey_cases x false with ⟨_, e⟩ | ⟨_, e⟩ <;> simp [e]
  case drw x y n => split <;> simp
  all_goals simp [State.raiseInvalidOpcode]

/-- A tick is finished by the countdown of the timers when no fault was raised. -/
theorem State.finishTick_running {s : State} (h : s.status = .running) : s.finishTick = s.stepTimers := by
  simp [State.finishTick, h]

/-- A fault ends the tick. -/
@[simp] theorem State.finishTick_raise (s : State) (kind : FaultKind) (info : Word) :
    (s.raise kind info).finishTick = s.raise kind info := rfl

/-- A halted engine has no next state. -/
theorem step_halted {s : State} {kind : FaultKind} {info : Word} (h : s.status = .faulted kind info) :
    step s = .fault (.halted kind info) := by
  simp [step, tick, h]

/-- A running engine with its instruction in memory runs the decoded instruction. -/
theorem step_running {s : State} (h : s.status = .running) (hp : s.pc.toNat ≤ 4094) :
    step s = runInstr (decode s.fetchWord) s.clearChanged := by
  simp [step, tick, h, State.fetchInRange, hp]

/-- Everything a tick with a next state can have been: a fetch out of range, or the decoded instruction, run on the state
with `changed` cleared and followed by the timers unless it raised a fault. -/
theorem step_cases {s t : State} (h : step s = .next t) : s.status = .running ∧
    ((4094 < s.pc.toNat ∧ t = s.clearChanged.raise .fetchRange s.pc) ∨
     (s.pc.toNat ≤ 4094 ∧ ∃ u, exec (decode s.fetchWord) s.clearChanged = .next u ∧ t = u.finishTick)) := by
  cases hs : s.status with
  | faulted kind info => rw [step_halted hs] at h; cases h
  | running =>
    refine ⟨rfl, ?_⟩
    by_cases hp : s.pc.toNat ≤ 4094
    · rw [step_running hs hp, runInstr] at h
      obtain ⟨u, hu⟩ := exec_next (decode s.fetchWord) s.clearChanged
      rw [hu] at h
      injection h with h
      exact .inr ⟨hp, u, hu, h.symm⟩
    · simp only [step, tick, hs, State.fetchInRange, hp, decide_false] at h
      injection h with h
      exact .inl ⟨by omega, h.symm⟩

end Sys2Proof.Machine
end

