-- ==== Sys2Proof/Tests/Slice0.lean ====
section
/-! SUPPORT. The model's own tests: the well-formedness smoke test, the decode table of 95_test_vectors.md B1, one or two single
ticks per instruction with the results the vectors of 95_test_vectors.md give, and for every statement with hypotheses a state
and operands that meet them. Expected values come from the spec's vectors, never from the model. -/

namespace Sys2Proof.Tests

open Sys2Proof Sys2Proof.Machine

/-! ### Helpers -/

/-- The next state of an outcome. -/
def after (o : Host.Outcome State Fault Refusal) : Option State :=
  match o with
  | .next t => some t
  | .fault _ => none
  | .refused _ => none

/-- What a tick of a state with the word `w` placed at `pc` leaves, seen through `f`. -/
def tickOf {α : Type} (s : State) (w : Nat) (f : State → α) : Option α := (after (step (s.withFetchWord 16 w))).map f

/-- The reset state with another `pc`. -/
def atPc (pc : Word) : State := { State.reset with pc := pc }

/-- The reset state with sprite bytes at 0x300 and `I` there. -/
def withSprite (bytes : List Byte) : State :=
  { State.reset with index := 0x300, mem := Memory.writeBytes [] 0x300 bytes }

/-- The pixels at the places `(x, y)`. -/
def pixels (ps : List (Fin 64 × Fin 32)) (s : State) : List Bool := ps.map fun p => s.pixel p.2 p.1

/-- A state with some more pixels `(x, y)` lit. -/
def withLit (ps : List (Fin 64 × Fin 32)) (s : State) : State :=
  ps.foldl (fun s p => s.setFb (Framebuffer.setPixel s.fb p.2 p.1 true)) s

/-- The reset state with one register set. -/
def withV (r : Reg) (b : Byte) : State := State.reset.setV r b

/-- The reset state with one key pressed and one register set. -/
def withKey (k : Fin 16) (r : Reg) (b : Byte) : State := { withV r b with keys := State.reset.keys.set k true }

/-- An outcome is a next state of which something decidable holds. -/
theorem meets {o : Host.Outcome State Fault Refusal} {P : State → Prop} [DecidablePred P]
    (h : (after o).any (fun t => decide (P t)) = true) : ∃ t, o = .next t ∧ P t := by
  cases o with
  | next t => exact ⟨t, rfl, by simpa [after] using h⟩
  | fault r => simp [after] at h
  | refused r => simp [after] at h

/-! ### Well-formedness: an ill-formed term for each check -/

theorem test_wf_sys_not_cls : (Instr.sys 0x1E0).wf = false := by decide
theorem test_wf_sys_not_ret : (Instr.sys 0xFEE).wf = false := by decide
theorem test_wf_illegal8_not_copy : (Instr.illegal8 0x120).wf = false := by decide
theorem test_wf_illegalE_not_skp : (Instr.illegalE 0x09E).wf = false := by decide
theorem test_wf_illegalE_not_sknp : (Instr.illegalE 0x7A1).wf = false := by decide

/-! ### Decoding: words of 95_test_vectors.md B1, bit by bit from the encodings of 30_encoding.md R97 and R100 -/

/-- `0000 uuuu 1110 0000`. -/
theorem test_decode_cls : decode 0b0000_0001_1110_0000 = .cls 0x1 := by decide
/-- `0000 uuuu 1110 1110`. -/
theorem test_decode_ret : decode 0b0000_0000_1110_1110 = .ret 0x0 := by decide
/-- `0000 nnnn nnnn nnnn`, the low byte neither E0 nor EE. -/
theorem test_decode_sys : decode 0b0000_0000_1110_1101 = .sys 0x0ED := by decide
/-- `0001 nnnn nnnn nnnn`. -/
theorem test_decode_jp : decode 0b0001_1010_1011_1100 = .jp 0xABC := by decide
/-- `0010 nnnn nnnn nnnn`. -/
theorem test_decode_call : decode 0b0010_0011_0000_0000 = .call 0x300 := by decide
/-- `0011 xxxx kkkk kkkk`. -/
theorem test_decode_se : decode 0b0011_0000_0001_0000 = .se 0 0x10 := by decide
/-- `0100 xxxx kkkk kkkk`. -/
theorem test_decode_sne : decode 0b0100_1111_0000_0001 = .sne 15 0x01 := by decide
/-- `0110 xxxx kkkk kkkk`. -/
theorem test_decode_ldImm : decode 0b0110_1010_0010_1111 = .ldImm 10 0x2F := by decide
/-- `0111 xxxx kkkk kkkk`. -/
theorem test_decode_addImm : decode 0b0111_0001_0010_0000 = .addImm 1 0x20 := by decide
/-- `1000 xxxx yyyy 0000`. -/
theorem test_decode_ldReg : decode 0b1000_1010_1111_0000 = .ldReg 10 15 := by decide
/-- `1010 nnnn nnnn nnnn`. -/
theorem test_decode_ldI : decode 0b1010_0010_0000_1110 = .ldI 0x20E := by decide
/-- `1011 nnnn nnnn nnnn`. -/
theorem test_decode_jpV0 : decode 0b1011_0010_0000_1100 = .jpV0 0x20C := by decide
/-- `1100 xxxx kkkk kkkk`. -/
theorem test_decode_rnd : decode 0b1100_0011_0000_1111 = .rnd 3 0x0F := by decide
/-- `1101 xxxx yyyy nnnn`. -/
theorem test_decode_drw : decode 0b1101_0000_0001_0010 = .drw 0 1 2 := by decide
/-- `1110 xxxx 1001 1110`. -/
theorem test_decode_skp : decode 0b1110_0000_1001_1110 = .skp 0 := by decide
/-- `1110 xxxx 1010 0001`. -/
theorem test_decode_sknp : decode 0b1110_0111_1010_0001 = .sknp 7 := by decide
/-- `0101 uuuu uuuu uuuu`. -/
theorem test_decode_illegal5 : decode 0b0101_0001_0010_0000 = .illegal5 0x120 := by decide
/-- `1000 uuuu uuuu NNNN`, `NNNN` not 0. -/
theorem test_decode_illegal8 : decode 0b1000_0001_0010_1110 = .illegal8 0x12E := by decide
/-- `1001 uuuu uuuu uuuu`. -/
theorem test_decode_illegal9 : decode 0b1001_0001_0010_0000 = .illegal9 0x120 := by decide
/-- `1110 uuuu kkkk kkkk`, the low byte neither 9E nor A1. -/
theorem test_decode_illegalE : decode 0b1110_0000_1001_1111 = .illegalE 0x09F := by decide
/-- `1111 uuuu uuuu uuuu`. -/
theorem test_decode_illegalF : decode 0b1111_0001_0110_0101 = .illegalF 0x165 := by decide

/-- The first byte is the high byte (20_memory.md R60), and one byte is no instruction (R90). -/
theorem test_decodeBytes : decodeBytes [0x1A, 0xBC, 0x00] = .ok (.jp 0xABC, [0x00]) ∧
    decodeBytes [0x1A] = .error .truncated ∧ decodeBytes [] = .error .truncated := by decide

/-! ### One tick per instruction -/

/-- B5 row 1. -/
theorem test_cls : tickOf (withLit [(3, 3), (10, 20)] (withV 15 1)) 0x00E0
    (fun t => (pixels [(3, 3), (10, 20)] t, t.changed, t.readV 15)) = some ([false, false], false, 1) := by decide

/-- B2 rows 9 and 10 (and A10). -/
theorem test_ret : tickOf { atPc 0x300 with stack := [0, 0x0202] } 0x00EE (fun t => (t.pc, t.stack)) = some (0x0202, [0]) ∧
    tickOf State.reset 0x00EE (fun t => (t.pc, t.stack, t.status)) = some (0, [], .running) := by decide

/-- B2 row 11. -/
theorem test_ret_underflow : tickOf { State.reset with stack := [] } 0x00EE (fun t => (t.pc, t.stack, t.status)) =
    some (0x200, [], .faulted .stackUnderflow 0x0200) := by decide

/-- B2 row 2. -/
theorem test_sys : tickOf { State.reset with dt := 3 } 0x0123 (fun t => (t.pc, t.dt)) = some (0x202, 2) := by decide

/-- A3, and B2 rows 3 and 5. -/
theorem test_jp : tickOf State.reset 0x1ABC State.pc = some 0x0ABC ∧ tickOf State.reset 0x1200 State.pc = some 0x200 ∧
    tickOf State.reset 0x1FFF State.pc = some 0x0FFF := by decide

/-- B2 row 8, with `STACK_DEPTH = 16`: the pushed address is 16 bits wide. -/
theorem test_call (h : Config.UsesStackDepth 16) :
    exec (.call 0x400) (atPc 0xFFE) = .next { atPc 0x400 with stack := [0x0000, 0x1000] } := by
  simp only [exec, execCall, State.stackFull, h.1]
  rfl

/-- B2 rows 13 and 14, with `STACK_DEPTH = 16`. -/
theorem test_call_depth (h : Config.UsesStackDepth 16) :
    exec (.call 0x300) { State.reset with stack := List.replicate 16 0x0202 } =
      .next { State.reset with stack := List.replicate 16 0x0202, status := .faulted .stackOverflow 0x0200 } ∧
    exec (.call 0x300) { State.reset with stack := List.replicate 15 0x0202 } =
      .next { State.reset with stack := List.replicate 16 0x0202, pc := 0x300 } := by
  simp only [exec, execCall, State.stackFull, h.1]
  exact ⟨rfl, rfl⟩

/-- B2 rows 16 and 19. -/
theorem test_jpV0 : tickOf ((atPc 0x202).setV 0 0xFF) 0xBFFF State.pc = some 0x10FE ∧
    tickOf ((withV 11 0x55).setV 0 0x04) 0xBB00 State.pc = some 0x0B04 := by decide

/-- B3 rows 1, 2 and 7. -/
theorem test_se : tickOf (withV 0 0x10) 0x3010 State.pc = some 0x204 ∧ tickOf (withV 0 0x11) 0x3010 State.pc = some 0x202 ∧
    tickOf (atPc 0xFFE) 0x3000 State.pc = some 0x1002 := by decide

/-- B3 rows 5 and 6. -/
theorem test_sne : tickOf (withV 3 0x00) 0x4301 State.pc = some 0x204 ∧
    tickOf (withV 3 0x01) 0x4301 State.pc = some 0x202 := by decide

/-- B3 rows 8, 9 and 12. -/
theorem test_skp : tickOf (withKey 7 0 7) 0xE09E State.pc = some 0x204 ∧ tickOf (withV 0 7) 0xE09E State.pc = some 0x202 ∧
    tickOf (withKey 15 5 0x0F) 0xE59E State.pc = some 0x204 := by decide

/-- B3 row 13. -/
theorem test_skp_keyRange : tickOf (withKey 0 0 0x10) 0xE09E (fun t => (t.pc, t.status)) =
    some (0x200, .faulted .keyRange 0x0010) := by decide

/-- B3 rows 10 and 11. -/
theorem test_sknp : tickOf (withV 0 7) 0xE0A1 State.pc = some 0x204 ∧
    tickOf (withKey 7 0 7) 0xE0A1 State.pc = some 0x202 := by decide

/-- B3 row 14. -/
theorem test_sknp_keyRange : tickOf (withV 0 0xFF) 0xE0A1 (fun t => (t.pc, t.status)) =
    some (0x200, .faulted .keyRange 0x00FF) := by decide

/-- B4 rows 1 and 2. -/
theorem test_ldImm : tickOf State.reset 0x6A2F (fun t => (t.readV 10, t.pc)) = some (0x2F, 0x202) ∧
    tickOf (withV 15 0x01) 0x6F00 (fun t => t.readV 15) = some 0x00 := by decide

/-- B4 rows 3 and 9. -/
theorem test_addImm : tickOf (withV 1 0xF0) 0x7120 (fun t => (t.readV 1, t.readV 15, t.pc)) = some (0x10, 0, 0x202) ∧
    tickOf (withV 15 0xFE) 0x7F03 (fun t => t.readV 15) = some 0x01 := by decide

/-- B4 rows 10 and 12. -/
theorem test_ldReg : tickOf (withV 0 0x2A) 0x8100 (fun t => (t.readV 1, t.readV 0, t.pc)) = some (0x2A, 0x2A, 0x202) ∧
    tickOf (withV 15 0x01) 0x8AF0 (fun t => t.readV 10) = some 0x01 := by decide

/-- B4 rows 14 and 15. -/
theorem test_ldI : tickOf { State.reset with index := 0x0123 } 0xAFFF (fun t => (t.index, t.pc)) = some (0x0FFF, 0x202) ∧
    tickOf { State.reset with index := 0x0123 } 0xA000 State.index = some 0x0000 := by decide

/-- B4 rows 16, 17 and 20: for a draw byte of that value. -/
theorem test_rnd (h : Config.freeByte 0 = 0xA7) (h' : Config.freeByte 1 = 0xFF) :
    tickOf State.reset 0xC30F (fun t => (t.readV 3, t.pc)) = some (0x07, 0x202) ∧
    tickOf { State.reset with draws := 1 } 0xCF81 (fun t => t.readV 15) = some 0x81 := by
  have e : tickOf State.reset 0xC30F (fun t => (t.readV 3, t.pc)) = some (Config.freeByte 0 &&& 0x0F, 0x202) := rfl
  have e' : tickOf { State.reset with draws := 1 } 0xCF81 (fun t => t.readV 15) = some (Config.freeByte 1 &&& 0x81) := rfl
  rw [e, e', h, h']
  decide

/-- B5 row 8 and program C3 tick 4: wrap-around on both axes. -/
theorem test_drw_wraps : tickOf (((withSprite [0xC3, 0x81]).setV 0 62).setV 1 31) 0xD012
    (fun t => (pixels [(62, 31), (63, 31), (4, 31), (5, 31), (62, 0), (5, 0)] t,
      pixels [(61, 31), (0, 31), (3, 31), (6, 31), (63, 0), (4, 0)] t, t.readV 15)) =
    some ([true, true, true, true, true, true], [false, false, false, false, false, false], 1) := by decide

/-- B5 rows 4, 7, 13, 15 and 19: change and not collision, `n = 0`, out of range, VF as an origin register. -/
theorem test_drw_flags :
    tickOf (withLit [(0, 0), (1, 0)] (withSprite [0xC0])) 0xD011 (fun t => (pixels [(0, 0), (1, 0)] t, t.readV 15, t.changed)) =
      some ([false, false], 1, true) ∧
    tickOf (withLit [(1, 0)] (withSprite [0x80])) 0xD011 (fun t => (pixels [(0, 0), (1, 0)] t, t.readV 15, t.changed)) =
      some ([true, true], 1, true) ∧
    tickOf ((withSprite [0xFF]).setV 15 5) 0xD010 (fun t => (pixels [(0, 0)] t, t.readV 15, t.changed)) =
      some ([false], 0, false) ∧
    tickOf { withV 15 5 with index := 0xFFF } 0xD002 (fun t => (t.readV 15, t.pc, t.changed, t.status)) =
      some (5, 0x200, false, .faulted .spriteRange 0x1000) ∧
    tickOf (((withSprite [0x80]).setV 15 5).setV 0 2) 0xDF01 (fun t => (pixels [(5, 2)] t, t.readV 15)) =
      some ([true], 1) := by decide

/-- A8 and B6 row 8: a fault does not step the timers. -/
theorem test_illegal5 : tickOf { State.reset with dt := 9, st := 1 } 0x5120 (fun t => (t.pc, t.dt, t.st, t.status)) =
    some (0x200, 9, 1, .faulted .invalidOpcode 0x5120) := by decide

/-- B6 row 1. -/
theorem test_illegal8 : tickOf State.reset 0x8121 (fun t => (t.pc, t.status)) =
    some (0x200, .faulted .invalidOpcode 0x8121) := by decide

/-- B6 row 4. -/
theorem test_illegal9 : tickOf State.reset 0x9120 State.status = some (.faulted .invalidOpcode 0x9120) := by decide

/-- B6 rows 2 and 9: the fault comes after `changed` is cleared. -/
theorem test_illegalE : tickOf { State.reset with changed := true } 0xE0A0 (fun t => (t.changed, t.status)) =
    some (false, .faulted .invalidOpcode 0xE0A0) := by decide

/-- B6 row 3. -/
theorem test_illegalF : tickOf State.reset 0xF165 State.status = some (.faulted .invalidOpcode 0xF165) := by decide

/-! ### The tick, the timers, the halted engine, load -/

/-- B6 rows 5 and 6. -/
theorem test_fetchRange : (after (step (atPc 0xFFF))).map State.status = some (.faulted .fetchRange 0x0FFF) ∧
    tickOf (atPc 0xFFE) 0x0000 (fun t => (t.pc, t.status)) = some (0x1000, .running) ∧
    (after (step (atPc 0x1000))).map State.status = some (.faulted .fetchRange 0x1000) := by decide

/-- A9 and B7 rows 1 and 3: the beep. -/
theorem test_beep : tickResult ({ State.reset with st := 1 }.withFetchWord 16 0x1200) = some (.ok true) ∧
    tickResult ({ State.reset with st := 2 }.withFetchWord 16 0x1200) = some (.ok false) ∧
    tickResult (State.reset.withFetchWord 16 0x1200) = some (.ok false) ∧
    tickOf State.reset 0x1200 (fun t => (t.dt, t.st)) = some (0, 0) := by decide

/-- B6 row 7. -/
theorem test_halted : step { State.reset with status := .faulted .invalidOpcode 0x5120, dt := 9, st := 1 } =
      .fault (.halted .invalidOpcode 0x5120) ∧
    tickResult { State.reset with status := .faulted .invalidOpcode 0x5120, dt := 9, st := 1 } =
      some (.fault .invalidOpcode 0x5120) := ⟨rfl, rfl⟩

/-- B8 row 2: the image, and its first tick. -/
theorem test_load : (after (step (load [0x60, 0x05, 0x61] State.reset).1)).map (fun t => (t.readV 0, t.pc)) = some (0x05, 0x202) ∧
    ([0x200, 0x201, 0x202, 0x203].map (load [0x60, 0x05, 0x61] State.reset).1.readMem) = [0x60, 0x05, 0x61, 0x00] := by
  decide

/-- Program C6: an instruction at an odd address. -/
theorem test_odd_pc : (after (step { (load [0x12, 0x03, 0x00, 0x61, 0x2A, 0x12, 0x05] State.reset).1 with pc := 0x203 })).map
    (fun t => (t.readV 1, t.pc)) = some (0x2A, 0x205) := by decide

/-- C4 tick 9, for the default FONT: the word at address 0. -/
theorem test_font (h : Config.UsesDefaultFont) : (atPc 0x000).fetchWord = 0xF090 := by
  have e : (atPc 0x000).fetchWord = Config.font 0 ++ Config.font 1 := rfl
  rw [e, h 0, h 1]
  decide

/-- The codes of 60_exceptions.md R180. -/
theorem test_faultCode : [FaultKind.invalidOpcode, .fetchRange, .spriteRange, .keyRange, .stackOverflow, .stackUnderflow].map
    faultCode ++ [imageTooLargeCode] = [1, 2, 3, 4, 5, 6, 7] := by decide

/-! ### Witnesses: for each statement with hypotheses, a state and operands that meet them, at the bounds of each clause -/

/-- `Obligations.DecodeOfEncodeGivesTheInstruction`. -/
theorem witness_DecodeOfEncode : (Instr.sys 0x0DF).wf = true ∧ (Instr.sys 0xFEF).wf = true ∧ (Instr.illegal8 0x001).wf = true ∧
    (Instr.illegal8 0xFFF).wf = true ∧ (Instr.illegalE 0x09F).wf = true ∧ (Instr.cls 0xF).wf = true := by decide

/-- `Obligations.RowsOverlapOnlyInFamilyZero`: the two overlaps, and a row with itself. -/
theorem witness_RowsOverlap : OpcodeRow.sys ∈ opcodeRows.take 16 ∧ OpcodeRow.cls ∈ opcodeRows.take 16 ∧
    OpcodeRow.ret ∈ opcodeRows.take 16 ∧ rowMatches 0x00E0 .sys = true ∧ rowMatches 0x0FE0 .cls = true ∧
    rowMatches 0x0FE0 .sys = true ∧ rowMatches 0x00EE .ret = true ∧ rowMatches 0x00EE .sys = true := by decide

/-- A state with the word `w` at the last place a fetch can start. -/
def lastFetch (w : Nat) : State := (atPc 4094).withFetchWord 16 w

/-- `Obligations.ExactlyTheIllegalWordsRaiseInvalidOpcode`: an illegal word and a legal one, at the last address. -/
theorem witness_ExactlyTheIllegalWords :
    ((lastFetch 0xFFFF).status = .running ∧ (lastFetch 0xFFFF).pc.toNat ≤ 4094 ∧
      Claims.wordAtPc (lastFetch 0xFFFF) = 0xFFFF ∧ Claims.IllegalWord 0xFFFF) ∧
    ((lastFetch 0x8FF0).status = .running ∧ (lastFetch 0x8FF0).pc.toNat ≤ 4094 ∧
      Claims.wordAtPc (lastFetch 0x8FF0) = 0x8FF0 ∧ ¬Claims.IllegalWord 0x8FF0) := by
  unfold Claims.IllegalWord
  decide

/-- `Obligations.StepRunsTheDecodedInstruction`. -/
theorem witness_StepRuns : (lastFetch 0x7F01).status = .running ∧ (lastFetch 0x7F01).pc.toNat ≤ 4094 ∧
    decodeBytes [(lastFetch 0x7F01).readMem (lastFetch 0x7F01).pc.toNat,
      (lastFetch 0x7F01).readMem ((lastFetch 0x7F01).pc.toNat + 1)] = .ok (.addImm 15 0x01, []) := ⟨rfl, by decide, rfl⟩

/-- `Obligations.FetchPastMemoryRaisesFetchRange`: the first address past the bound and the last of the word. -/
theorem witness_FetchPastMemory : (atPc 4095).status = .running ∧ 4094 < (atPc 4095).pc.toNat ∧
    (atPc 0xFFFF).status = .running ∧ 4094 < (atPc 0xFFFF).pc.toNat := by decide

/-- A halted state. -/
def halted : State := { State.reset with status := .faulted .keyRange 0x0010 }

/-- `Obligations.HaltedEngineReturnsTheLatchedFault`. -/
theorem witness_HaltedEngine : halted.status = .faulted .keyRange 0x0010 := rfl

/-- `Obligations.TickFaultsArePrecise`: a fault of the fetch, and one of an instruction. -/
theorem witness_TickFaults : (∃ t, step (atPc 4095) = .next t ∧ t.status = .faulted .fetchRange 0x0FFF) ∧
    ∃ t, step (lastFetch 0xFFFF) = .next t ∧ t.status = .faulted .invalidOpcode 0xFFFF :=
  ⟨meets (by decide), meets (by decide)⟩

/-- `Obligations.DelayTimerStepsOncePerTick`, `Obligations.SoundTimerStepsAndBeepsAtOne`,
`Obligations.NoTickWritesMemoryOrKeypad` and the first half of `Obligations.PcAfterEveryTick`: a tick that completes, with the
timers at 0, at 1 and at their largest. -/
theorem witness_TickCompletes : (∃ t, step (lastFetch 0x0000) = .next t ∧ t.status = .running) ∧
    (∃ t, step { lastFetch 0x0000 with dt := 1, st := 1 } = .next t ∧ t.status = .running) ∧
    ∃ t, step { lastFetch 0x0000 with dt := 255, st := 255 } = .next t ∧ t.status = .running :=
  ⟨meets (by decide), meets (by decide), meets (by decide)⟩

/-- The second half of `Obligations.PcAfterEveryTick`. -/
theorem witness_TickFaulted : ∃ t, step (lastFetch 0xE09F) = .next t ∧ t.status ≠ .running := meets (by decide)

/-- `Obligations.TimersCountTicks`: no tick, and two. -/
theorem witness_TimersCountTicks : (RunsTo 0 State.reset State.reset ∧ State.reset.status = .running) ∧
    ∃ t, RunsTo 2 ({ State.reset with dt := 1, st := 255 }.withFetchWord 16 0x1200) t ∧ t.status = .running :=
  ⟨⟨rfl, rfl⟩, meets (by decide)⟩

/-- `Obligations.ChangedMeansADrawFlippedAPixel`: both sides true, and a draw that flips nothing. -/
theorem witness_Changed :
    (∃ t, step ((withSprite [0x80]).withFetchWord 16 0xD011) = .next t ∧ (t.changed = true ∧ t.pixel 0 0 ≠ (withSprite [0x80]).pixel 0 0)) ∧
    ∃ t, step ((withSprite []).withFetchWord 16 0xD01F) = .next t ∧ t.changed = false :=
  ⟨meets (by decide), meets (by decide)⟩

/-- `Obligations.OnlyTheNamedInstructionsWrite`: for each clause a tick that writes the item. -/
theorem witness_OnlyTheNamed :
    (∃ t, step (State.reset.withFetchWord 16 0xAFFF) = .next t ∧ t.index ≠ State.reset.index) ∧
    (∃ t, step (State.reset.withFetchWord 16 0x00EE) = .next t ∧ t.stack ≠ State.reset.stack) ∧
    (∃ t, step ((withSprite [0x01]).withFetchWord 16 0xD011) = .next t ∧ t.fb ≠ (withSprite [0x01]).fb) ∧
    (∃ t, step ((withLit [(0, 0)] State.reset).withFetchWord 16 0x00E0) = .next t ∧ t.fb ≠ (withLit [(0, 0)] State.reset).fb) ∧
    (∃ t, step (State.reset.withFetchWord 16 0xC000) = .next t ∧ t.draws ≠ State.reset.draws) ∧
    (∃ t, step (State.reset.withFetchWord 16 0x6F01) = .next t ∧ t.readV 15 ≠ State.reset.readV 15) ∧
    ∃ t, step ((withSprite [0x01]).withFetchWord 16 0xD011) = .next t ∧ t.readV 15 ≠ (withSprite [0x01]).readV 15 :=
  ⟨meets (by decide), meets (by decide), meets (by decide), meets (by decide), meets (by decide), meets (by decide),
    meets (by decide)⟩

/-- A state with every bounded item at its bound. -/
def atBounds (pc : Word) : State := { State.reset with pc := pc, index := 0x0FFF, stack := [4096] }

/-- The same with a word at `a` and one register set. -/
def placed (pc : Word) (a w : Nat) (r : Reg) (b : Byte) : State :=
  { atBounds pc with mem := Memory.writeBytes [] a (wordBytes (tableWord 16 w)), v := State.reset.v.set r b }

/-- Such states meet the invariant. -/
theorem placed_inv {pc : Word} (h : pc.toNat ≤ 4350) (a w : Nat) (r : Reg) (b : Byte) : (placed pc a w r b).Inv where
  memory := Memory.wf_writeBytes _ _ rfl
  index := Nat.le_refl _
  pc := h
  entries := by simp [placed, atBounds]
  depth := depthAdmits_one _

/-- `Obligations.EveryTickKeepsTheInvariant` and `Obligations.HostOperationsKeepTheInvariant`: `pc` at its bound, and a skip
at the last address a fetch can start at. -/
theorem witness_Invariant :
    ((placed 4350 512 0 0 0).Inv ∧ ∃ t, step (placed 4350 512 0 0 0) = .next t ∧ t.pc = 4350) ∧
    (placed 4094 4094 0x3000 0 0).Inv ∧ ∃ t, step (placed 4094 4094 0x3000 0 0) = .next t ∧ t.pc = 4098 :=
  ⟨⟨placed_inv (by decide) .., meets (by decide)⟩, placed_inv (by decide) .., meets (by decide)⟩

/-- `Obligations.LatchedFaultTellsItsCause`, an illegal word. -/
theorem witness_LatchedFault_invalidOpcode : (placed 512 512 0x5000 0 0).Inv ∧
    ∃ t, step (placed 512 512 0x5000 0 0) = .next t ∧ t.status = .faulted .invalidOpcode 0x5000 :=
  ⟨placed_inv (by decide) .., meets (by decide)⟩

/-- The same, a fetch past memory. -/
theorem witness_LatchedFault_fetchRange : (placed 4095 512 0 0 0).Inv ∧
    ∃ t, step (placed 4095 512 0 0 0) = .next t ∧ t.status = .faulted .fetchRange 0x0FFF :=
  ⟨placed_inv (by decide) .., meets (by decide)⟩

/-- The same, a sprite past memory. -/
theorem witness_LatchedFault_spriteRange : (placed 512 512 0xD002 0 0).Inv ∧
    ∃ t, step (placed 512 512 0xD002 0 0) = .next t ∧ t.status = .faulted .spriteRange 0x1000 :=
  ⟨placed_inv (by decide) .., meets (by decide)⟩

/-- The same, a number that names no key. -/
theorem witness_LatchedFault_keyRange : (placed 512 512 0xE3A1 3 16).Inv ∧
    ∃ t, step (placed 512 512 0xE3A1 3 16) = .next t ∧ t.status = .faulted .keyRange 0x0010 :=
  ⟨placed_inv (by decide) .., meets (by decide)⟩

/-- The same, an empty stack. -/
theorem witness_LatchedFault_stackUnderflow : ({ placed 512 512 0x00EE 0 0 with stack := [] } : State).Inv ∧
    ∃ t, step { placed 512 512 0x00EE 0 0 with stack := [] } = .next t ∧ t.status = .faulted .stackUnderflow 0x0200 := by
  have h : (placed 512 512 0x00EE 0 0).Inv := placed_inv (by decide) ..
  exact ⟨⟨h.memory, h.index, h.pc, by simp, depthAdmits_mono (Nat.zero_le 1) (depthAdmits_one _)⟩, meets (by decide)⟩

/-- The full stack of `Obligations.LatchedFaultTellsItsCause`, for `STACK_DEPTH = 1`. -/
theorem witness_LatchedFault_fullStack (h : Config.UsesStackDepth 1) :
    (placed 512 512 0x2300 0 0).Inv ∧ ∃ t, step (placed 512 512 0x2300 0 0) = .next t ∧ t.status = .faulted .stackOverflow 0x0200 := by
  refine ⟨placed_inv (by decide) .., (placed 512 512 0x2300 0 0).clearChanged.raise .stackOverflow 0x0200, ?_, rfl⟩
  have e : step (placed 512 512 0x2300 0 0) = runInstr (.call 0x300) (placed 512 512 0x2300 0 0).clearChanged := rfl
  rw [e]
  simp only [runInstr, exec, execCall, State.stackFull, h.1]
  rfl

/-- `Obligations.MemoryFormIsCanonical`: the first and the last address. -/
theorem witness_MemoryForm : Memory.wf [(80, 1), (4095, 1)] = true ∧
    ∀ a, Memory.read [(80, 1), (4095, 1)] a = Memory.read [(80, 1), (4095, 1)] a := ⟨by decide, fun _ => rfl⟩

/-- `Obligations.TimersDoNotInfluencePrograms`, `Obligations.ScreenDoesNotInfluencePrograms`,
`Obligations.KeypadIsReadByKeySkipsOnly` and `Obligations.FreeBytesAreReadByRandomOnly`: a draw. -/
theorem witness_Noninterference : (∃ t, step ((withSprite [0x01]).withFetchWord 16 0xD011) = .next t ∧ t.changed = true) ∧
    Claims.wordAtPc ((withSprite [0x01]).withFetchWord 16 0xD011) = 0xD011 ∧
    (∀ x, decode 0xD011 ≠ .skp x) ∧ (∀ x, decode 0xD011 ≠ .sknp x) ∧ ∀ x kk, decode 0xD011 ≠ .rnd x kk :=
  ⟨meets (by decide), by decide, fun _ => nofun, fun _ => nofun, fun _ _ => nofun⟩

/-- `Obligations.JumpToSelfStays`: at the entry point, and at the last address a fetch can start at. -/
theorem witness_JumpToSelf : (State.reset.withFetchWord 16 0x1200).AtGoodEnd ∧ (lastFetch 0x1FFE).AtGoodEnd := by
  unfold State.AtGoodEnd
  decide

/-- `Obligations.SysIsANoOperation`: words of the row, and a tick of one. -/
theorem witness_Sys : (0x0FFF#16 &&& 0xF000#16 = 0x0000#16 ∧ 0x0FFF#16 &&& 0xF0FF#16 ≠ 0x00E0#16 ∧
      0x0FFF#16 &&& 0xF0FF#16 ≠ 0x00EE#16) ∧
    (lastFetch 0x0FFF).status = .running ∧ (lastFetch 0x0FFF).pc.toNat ≤ 4094 ∧
    decode (Claims.wordAtPc (lastFetch 0x0FFF)) = .sys 0xFFF := by decide

/-- `Obligations.ReturnPopsIntoPc`: the sentinel, and an entry above it. -/
theorem witness_ReturnPops : State.reset.stack = [] ++ [0x0000] ∧
    ({ State.reset with stack := [0x0000, 0x1000] } : State).stack = [0x0000] ++ [0x1000] := by decide

/-- `Obligations.CallPushesTheReturnAddress`: an empty stack is below every depth, and 15 entries are below 16. -/
theorem witness_CallPushes : depthReached Config.stackDepth ({ State.reset with stack := [] } : State).stack.length = false ∧
    depthReached (.bounded 15) 15 = false ∧ depthReached (.bounded 15) 16 = true := ⟨depthReached_zero _, rfl, rfl⟩

/-- `Obligations.ReturnResumesAfterItsCall`: a CALL that completes, and a RET in a state with the stack it left. -/
theorem witness_ReturnResumes :
    ∃ t, exec (.call 0x300) { State.reset with stack := [] } = .next t ∧ t.status = .running ∧
      ({ atPc 0x400 with stack := t.stack } : State).stack = t.stack ∧
      ∃ r, exec (.ret 0x0) { atPc 0x400 with stack := t.stack } = .next r ∧ r.pc = 0x0202 := by
  refine ⟨{ State.reset with stack := [0x0202], pc := 0x300 }, ?_, rfl, rfl, _, rfl, rfl⟩
  have e : ({ State.reset with stack := [] } : State).stackFull = false := depthReached_zero _
  simp only [exec, execCall, e]
  rfl

/-- `Obligations.ExactlyOneOfEachSkipPairSkips`: equal and unequal, the last key number and a number above it. -/
theorem witness_SkipPairs : ∀ b : Byte, b = 0 ∨ b = 15 ∨ b = 16 → ∃ t u p q,
    exec (.se 0 15) (withV 0 b) = .next t ∧ exec (.sne 0 15) (withV 0 b) = .next u ∧
    exec (.skp 0) (withV 0 b) = .next p ∧ exec (.sknp 0) (withV 0 b) = .next q := fun _ _ => ⟨_, _, _, _, rfl, rfl, rfl, rfl⟩

/-- The premise on the key number in `Obligations.ExactlyOneOfEachSkipPairSkips`, and that of
`Obligations.KeySkipsTestTheNamedKey`: the first and the last key. -/
theorem witness_KeySkips : ((withV 0 15).readV 0).toNat ≤ 15 ∧ ((withV 0 0).readV 0).toNat = (0 : Fin 16).val ∧
    ((withV 0 15).readV 0).toNat = (15 : Fin 16).val := by decide

/-- `Obligations.OperandFaultsWriteStatusOnly`: the first values past each bound. -/
theorem witness_OperandFaults : 15 < ((withV 0 16).readV 0).toNat ∧ ({ State.reset with stack := [] } : State).stack = [] ∧
    (1 ≤ (2#4).toNat ∧ 4095 < (atBounds 512).index.toNat + (2#4).toNat - 1) ∧
    (1 ≤ (15#4).toNat ∧ 4095 < ({ State.reset with index := 0xFF2 } : State).index.toNat + (15#4).toNat - 1) := by decide

/-- The word clauses of `Obligations.LoadImmediateWritesVx`, `Obligations.AddImmediateWrapsWithoutCarry` and
`Obligations.CopyRegisterWritesVx`. -/
theorem witness_Words : 0x6FFF#16 &&& 0xF000#16 = 0x6000#16 ∧ 0x7FFF#16 &&& 0xF000#16 = 0x7000#16 ∧
    0x8FF0#16 &&& 0xF00F#16 = 0x8000#16 ∧ 0x8FFF#16 &&& 0xF000#16 = 0x8000#16 ∧ 0x8FFF#16 &&& 0xF00F#16 ≠ 0x8000#16 := by decide

/-- `Obligations.RandomByteIsMasked`: the mask of its clause. -/
theorem witness_RandomMask : ∃ kk : Byte, kk = 0xFF := ⟨_, rfl⟩

/-- `Obligations.DrawXorsTheSpriteWithWrapAround` and `Obligations.DrawReportsChangeInVfAndChanged`: no row with `I` at its
largest, one row at address 4095, fifteen rows up to it; the last row and column of a sprite, and a place no bit lands on. -/
theorem witness_Draw : ((0#4).toNat = 0 ∨ ({ State.reset with index := 0xFFFF } : State).index.toNat + (0#4).toNat - 1 ≤ 4095) ∧
    ((1#4).toNat = 0 ∨ (atBounds 512).index.toNat + (1#4).toNat - 1 ≤ 4095) ∧
    ((15#4).toNat = 0 ∨ ({ State.reset with index := 0xFF1 } : State).index.toNat + (15#4).toNat - 1 ≤ 4095) ∧
    (14 < (15#4).toNat ∧ 7 < 8 ∧ (13 : Fin 32).val = (((withV 1 255).readV 1).toNat % 32 + 14) % 32 ∧
      (6 : Fin 64).val = (((withV 0 255).readV 0).toNat % 64 + 7) % 64) ∧
    ∀ r c : Nat, r < (1#4).toNat → c < 8 →
      ¬((1 : Fin 32).val = ((State.reset.readV 1).toNat % 32 + r) % 32 ∧
        (0 : Fin 64).val = ((State.reset.readV 0).toNat % 64 + c) % 64) := by
  refine ⟨by decide, by decide, by decide, by decide, fun r c hr _ h => ?_⟩
  have : r = 0 := Nat.lt_one_iff.1 hr
  subst this
  exact absurd h.1 (by decide)

/-- `Obligations.DrawingTwiceRestoresTheScreen`. -/
theorem witness_DrawingTwice : (0 : Reg) ≠ 15 ∧ (1 : Reg) ≠ 15 ∧ ∃ t, exec (.drw 0 1 1) (withSprite [0xFF]) = .next t ∧
    ∃ r, exec (.drw 0 1 1) t = .next r := ⟨by decide, by decide, _, rfl, _, rfl⟩

/-- `Obligations.FrameOfLoadsAndAdd`: each instruction it names gives a next state. -/
theorem witness_FrameOfLoads : ∀ i ∈ [Instr.ldImm 15 0xFF, .addImm 15 0xFF, .ldReg 15 15, .rnd 15 0xFF],
    ∃ t, exec i State.reset = .next t := by
  intro i hi
  simp only [List.mem_cons, List.not_mem_nil, or_false] at hi
  rcases hi with rfl | rfl | rfl | rfl <;> exact ⟨_, rfl⟩

/-- `Obligations.FrameOfJumpsSkipsAndLoadIndex`, likewise. -/
theorem witness_FrameOfJumps :
    ∀ i ∈ [Instr.sys 0xFFF, .jp 0xFFF, .jpV0 0xFFF, .se 15 0xFF, .sne 15 0xFF, .ldI 0xFFF], ∃ t, exec i State.reset = .next t := by
  intro i hi
  simp only [List.mem_cons, List.not_mem_nil, or_false] at hi
  rcases hi with rfl | rfl | rfl | rfl | rfl | rfl <;> exact ⟨_, rfl⟩

/-- `Obligations.FrameOfCallsKeySkipsAndIllegalWords`, likewise. -/
theorem witness_FrameOfCalls : ∀ i ∈ [Instr.call 0xFFF, .ret 0xF, .skp 15, .sknp 15, .illegal5 0xFFF, .illegal8 0xFFF,
    .illegal9 0xFFF, .illegalE 0xFFF, .illegalF 0xFFF], ∃ t, exec i State.reset = .next t := by
  intro i hi
  simp only [List.mem_cons, List.not_mem_nil, or_false] at hi
  rcases hi with rfl | rfl | rfl | rfl | rfl | rfl | rfl | rfl | rfl <;> exact ⟨_, rfl⟩

/-- `Obligations.FrameOfDisplay`, likewise, with a draw in range and one out of range. -/
theorem witness_FrameOfDisplay : (∃ t, exec (.cls 0xF) State.reset = .next t) ∧
    (∃ t, exec (.drw 15 15 1) (atBounds 512) = .next t ∧ t.status = .running) ∧
    ∃ t, exec (.drw 15 15 2) (atBounds 512) = .next t ∧ t.status = .faulted .spriteRange 0x1000 :=
  ⟨⟨_, rfl⟩, meets (by decide), meets (by decide)⟩

/-- `Obligations.GeneralRegistersAreZeroAfterResetAndLoad`: a load that succeeds. -/
theorem witness_LoadOk : (load [0x12, 0x00] halted).2 = .ok := rfl

/-- `Obligations.LoadPlacesTheImage` and `Obligations.FirstTickAfterLoadRunsTheImage`: the empty image and the largest, and an
index and addresses at the bounds of the clauses. -/
theorem witness_Load : ([] : List Byte).length ≤ 3584 ∧ (List.replicate 3584 (0xFF : Byte)).length ≤ 3584 ∧
    3583 < (List.replicate 3584 (0xFF : Byte)).length ∧ (511 < 512 ∨ 512 + 3584 ≤ 511) ∧ (4096 < 512 ∨ 512 + 3584 ≤ 4096) := by
  simp only [List.length_replicate, List.length_nil]
  decide

/-- `Obligations.LoadOfTooLargeAnImageChangesNothing`: one byte too many. -/
theorem witness_LoadTooLarge : 3584 < (List.replicate 3585 (0xFF : Byte)).length := by
  rw [List.length_replicate]
  decide

end Sys2Proof.Tests
end

section
/-! PROOFS. Reset and load as operations of the host: what each gives, said once, and the general registers after them. -/

namespace Sys2Proof.Machine

/-- Either way a load can go (R182, R225): refused with nothing changed, or reset and then the image at 512. -/
theorem load_cases (image : List Byte) (s : State) :
    (Config.imageMax < image.length ∧ load image s = (s, .imageTooLarge image.length Config.imageMax)) ∨
    (image.length ≤ Config.imageMax ∧ load image s =
      ((hostReset s).setMem (Memory.writeBytes (hostReset s).mem Config.loadBase image), .ok)) := by
  by_cases h : Config.imageMax < image.length
  · exact .inl ⟨h, if_pos h⟩
  · exact .inr ⟨Nat.le_of_not_lt h, if_neg h⟩

/-- The general registers of the reset state (R221). -/
@[simp] theorem State.readV_reset (r : Reg) : State.reset.readV r = 0x00 := by
  simp [State.readV, State.reset, Vector.get_eq_getElem]

/-- `reset()` leaves the general registers of the reset state, whatever they held (R220). -/
@[simp] theorem hostReset_v (s : State) : (hostReset s).v = State.reset.v := State.setDraws_v _ _

/-- A load that succeeds leaves the general registers as reset does: the image goes to memory only (R225). -/
theorem load_v_of_ok {image : List Byte} {s : State} (h : (load image s).2 = .ok) :
    (load image s).1.v = State.reset.v := by
  obtain ⟨-, hload⟩ | ⟨-, hload⟩ := load_cases image s
  · simp [hload] at h
  · simp [hload]

/-- Settles O53: reset and a successful load both leave the register file of the reset state, which reads 0x00 everywhere. -/
theorem generalRegistersAreZeroAfterResetAndLoad : Obligations.GeneralRegistersAreZeroAfterResetAndLoad := by
  intro r s image
  refine ⟨State.readV_reset r, ?_, fun h => ?_⟩
  · rw [State.readV_of_v (hostReset_v s), State.readV_reset]
  · rw [State.readV_of_v (load_v_of_ok h), State.readV_reset]

end Sys2Proof.Machine
end

section
/-! PROOFS. The illegal words (30_encoding.md R100): which words decode to an illegal row, that decoding loses no bit of a
word, and which instructions raise `InvalidOpcode`. -/

namespace Sys2Proof

/-- The masks of R100 read as numbers: the top four bits, and what the low nibble or the low byte is not. -/
theorem illegalWord_iff (w : Word) : Claims.IllegalWord w ↔
    w.toNat / 4096 = 0x5 ∨ (w.toNat / 4096 = 0x8 ∧ w.toNat % 16 ≠ 0) ∨ w.toNat / 4096 = 0x9 ∨
    (w.toNat / 4096 = 0xE ∧ w.toNat % 256 ≠ 0x9E ∧ w.toNat % 256 ≠ 0xA1) ∨ w.toNat / 4096 = 0xF := by
  simp only [Claims.IllegalWord, ne_eq, ← BitVec.toNat_inj, toNat_maskOp, toNat_maskOpLowByte, toNat_maskOpLowNibble,
    BitVec.toNat_ofNat]
  omega

/-- The first half of R100: along the branches of the decoder, the illegal rows are the answers to the illegal words. -/
theorem isLegal_decode_eq_false_iff (w : Word) : (decode w).isLegal = false ↔ Claims.IllegalWord w := by
  rw [illegalWord_iff]
  rcases decode_cases w with h | h | h | h | h | h | h | h | h | h | h | h | h | h | h | h | h | h | h | h | h <;>
    simp [h, Instr.isLegal]

/-- Decoding loses no bit: encoding what a word decodes to gives the word back (R93, R103). -/
theorem encode_decode (w : Word) : encode (decode w) = w := by
  apply BitVec.eq_of_toNat_eq
  rw [toNat_encode]
  rcases decode_cases w with h | h | h | h | h | h | h | h | h | h | h | h | h | h | h | h | h | h | h | h | h <;>
    simp only [h, encodedNat, toNat_nnnField, toNat_kkField, toNat_nField, toNat_uField, val_xField, val_yField] <;> omega

end Sys2Proof

namespace Sys2Proof.Machine

/-- An illegal row raises `InvalidOpcode` with its whole word (R181). -/
theorem exec_of_illegal {i : Instr} (h : i.isLegal = false) (s : State) :
    exec i s = .next (s.raise .invalidOpcode (encode i)) := by
  cases i
  case illegal5 | illegal8 | illegal9 | illegalE | illegalF => rfl
  all_goals cases h

/-- A legal instruction may raise a fault, but never `InvalidOpcode`. -/
theorem exec_cases_of_isLegal {i : Instr} {s t : State} (hi : i.isLegal = true) (h : exec i s = .next t) :
    t.status = s.status ∨ ∃ kind info, kind ≠ .invalidOpcode ∧ t = s.raise kind info := by
  cases i <;> injection h with h <;> subst h
  case ret u =>
    cases s.top with
    | none => exact .inr ⟨.stackUnderflow, s.pc, by decide, rfl⟩
    | some target => exact .inl rfl
  case call nnn =>
    split
    · exact .inr ⟨.stackOverflow, s.pc, by decide, rfl⟩
    · exact .inl (by simp)
  case drw x y n =>
    split
    · exact .inr ⟨.spriteRange, _, by decide, rfl⟩
    · exact .inl (by simp)
  case skp x =>
    obtain ⟨_, e⟩ | ⟨_, e⟩ := s.skipOnKey_cases x true
    · exact .inl (by simp [e])
    · exact .inr ⟨.keyRange, _, by decide, e⟩
  case sknp x =>
    obtain ⟨_, e⟩ | ⟨_, e⟩ := s.skipOnKey_cases x false
    · exact .inl (by simp [e])
    · exact .inr ⟨.keyRange, _, by decide, e⟩
  case illegal5 | illegal8 | illegal9 | illegalE | illegalF => cases hi
  all_goals exact .inl (by simp)

/-- From a running state, the instructions that latch `InvalidOpcode` are the illegal rows, each with its own word. -/
theorem exec_latches_invalidOpcode_iff {i : Instr} {s t : State} (hs : s.status = .running) (h : exec i s = .next t)
    (w : Word) : t.status = .faulted .invalidOpcode w ↔ i.isLegal = false ∧ encode i = w := by
  cases hi : i.isLegal with
  | false =>
    rw [exec_of_illegal hi] at h
    injection h with h
    simp [← h, State.raise]
  | true =>
    obtain hst | ⟨kind, info, hkind, rfl⟩ := exec_cases_of_isLegal hi h
    · simp [hst, hs]
    · simp [State.raise, hkind]

/-- The timers do not touch `status`. -/
@[simp] theorem State.finishTick_status (s : State) : s.finishTick.status = s.status := by
  unfold State.finishTick
  split <;> simp

/-- A tick that executes an instruction returns exactly the fault that instruction latches (R120, R191). -/
theorem tickResult_eq_fault_iff {s u : State} (hs : s.status = .running) (hp : s.pc.toNat ≤ 4094)
    (hu : exec (decode s.fetchWord) s.clearChanged = .next u) (kind : FaultKind) (info : Word) :
    tickResult s = some (.fault kind info) ↔ u.status = .faulted kind info := by
  have htick : tick s = .next u.finishTick := by
    rw [← step, step_running hs hp, runInstr, hu]
  rw [tickResult, htick]
  cases hst : u.status <;> simp [hst]

/-- Settles O5: the decoder's illegal rows are the five patterns, and the tick of a word returns `InvalidOpcode` exactly when
the word decodes to one of them, whose encoding is the word itself. -/
theorem exactlyTheIllegalWordsRaiseInvalidOpcode : Obligations.ExactlyTheIllegalWordsRaiseInvalidOpcode := by
  intro w
  refine ⟨isLegal_decode_eq_false_iff w, fun s hs hp hw => ?_⟩
  have hfetch : s.fetchWord = w := hw
  obtain ⟨u, hu⟩ := exec_next (decode s.fetchWord) s.clearChanged
  calc tickResult s = some (.fault .invalidOpcode w)
    _ ↔ u.status = .faulted .invalidOpcode w := tickResult_eq_fault_iff hs hp hu _ _
    _ ↔ (decode w).isLegal = false ∧ encode (decode w) = w := by
      rw [exec_latches_invalidOpcode_iff (by simpa using hs) hu, hfetch]
    _ ↔ Claims.IllegalWord w := by simp [encode_decode, isLegal_decode_eq_false_iff]

end Sys2Proof.Machine
end

section
/-! PROOFS. The timers (40_cycle.md R128 to R131): what a tick that completes does to them and returns, and what a run of such
ticks does. -/

namespace Sys2Proof.Machine

/-- A tick that completes counts each timer down once, whatever its instruction was: the instruction keeps both timers and
raises no fault, so the countdown follows it (R128, R129). -/
theorem step_timers_of_running {s t : State} (h : step s = .next t) (ht : t.status = .running) :
    t.dt = countDown s.dt ∧ t.st = countDown s.st := by
  obtain ⟨-, ⟨-, rfl⟩ | ⟨-, u, hu, rfl⟩⟩ := step_cases h
  · cases ht
  · obtain ⟨-, -, hdt, hst⟩ := exec_keeps hu
    rw [State.finishTick_status] at ht
    simp [State.finishTick_running ht, hdt, hst]

/-- A tick that completes returns `Ok` with the beep of the ST it found (R129). -/
theorem tickResult_of_running {s t : State} (h : step s = .next t) (ht : t.status = .running) :
    tickResult s = some (.ok (beepOf s.st)) := by
  have htick : tick s = .next t := h
  simp [tickResult, htick, ht]

/-- Settles O11: the first half of `step_timers_of_running`. -/
theorem delayTimerStepsOncePerTick : Obligations.DelayTimerStepsOncePerTick :=
  fun _ _ h ht => (step_timers_of_running h ht).1

/-- Settles O12: the second half of `step_timers_of_running`, and the beep, which `beepOf_eq` places at ST = 1. -/
theorem soundTimerStepsAndBeepsAtOne : Obligations.SoundTimerStepsAndBeepsAtOne := by
  intro s t h ht
  refine ⟨(step_timers_of_running h ht).2, ?_⟩
  rw [tickResult_of_running h ht, beepOf_eq]

/-- The host's runner on any machine: `k + 1` steps that all have a next state are one step and `k` steps from there. -/
theorem core_run_succ_eq_next_iff (M : Host.Core) (k : Nat) (s t : M.State) :
    M.run (k + 1) s = .next t ↔ ∃ u, M.step s = .next u ∧ M.run k u = .next t := by
  rw [Host.Core.run]
  cases M.step s <;> simp

/-- A run of `k + 1` ticks is a tick with a next state and a run of `k` ticks from there. -/
theorem runsTo_succ_iff {k : Nat} {s t : State} : RunsTo (k + 1) s t ↔ ∃ u, step s = .next u ∧ RunsTo k u t :=
  core_run_succ_eq_next_iff core k s t

/-- A run of no ticks ends where it began. -/
theorem runsTo_zero_iff {s t : State} : RunsTo 0 s t ↔ s = t :=
  ⟨fun h => Host.Outcome.next.inj h, congrArg Host.Outcome.next⟩

/-- A run that ends in a running state began in one: a halted engine has no next state, so no tick of the run faulted. -/
theorem RunsTo.start_running {k : Nat} {s t : State} (h : RunsTo k s t) (ht : t.status = .running) :
    s.status = .running := by
  cases k with
  | zero => rwa [runsTo_zero_iff.1 h]
  | succ k =>
    obtain ⟨u, hu, -⟩ := runsTo_succ_iff.1 h
    exact (step_cases hu).1

/-- Settles O13, by induction on the number of ticks: the first tick completed, as the run from its next state ends running, so
it took one from each timer; subtraction that stops at 0 adds up over the ticks. -/
theorem timersCountTicks : Obligations.TimersCountTicks := by
  intro k
  induction k with
  | zero =>
    intro s t h _
    simp [runsTo_zero_iff.1 h]
  | succ k ih =>
    intro s t h ht
    obtain ⟨u, hstep, hrest⟩ := runsTo_succ_iff.1 h
    obtain ⟨hdt, hst⟩ := step_timers_of_running hstep (hrest.start_running ht)
    obtain ⟨hdtRest, hstRest⟩ := ih u t hrest ht
    rw [hdtRest, hstRest, hdt, hst, toNat_countDown, toNat_countDown]
    omega

end Sys2Proof.Machine
end

section
/-! PROOFS. SYS (41_flow.md R140): the words of its row, its execution, and its whole tick. -/

namespace Sys2Proof

/-- The row of SYS read as numbers: family 0 with a low byte that is neither that of CLS nor that of RET (R97, R98). -/
theorem decode_eq_sys {w : Word} (hop : w.toNat / 4096 = 0x0) (hcls : w.toNat % 256 ≠ 0xE0) (hret : w.toNat % 256 ≠ 0xEE) :
    decode w = .sys (nnnField w) := by
  have hfamily : decode w = decodeFamily0 w := by simp [decode, toNat_opField, hop]
  obtain ⟨h, -⟩ | ⟨h, -⟩ | ⟨-, -, h⟩ := decodeFamily0_cases w
  · exact absurd h hcls
  · exact absurd h hret
  · rw [hfamily, h]

/-- The columns match and mask of R97 give the same row. -/
theorem decode_eq_sys_of_mask {w : Word} (hop : w &&& 0xF000#16 = 0x0000#16) (hcls : w &&& 0xF0FF#16 ≠ 0x00E0#16)
    (hret : w &&& 0xF0FF#16 ≠ 0x00EE#16) : decode w = .sys (nnnField w) := by
  simp only [ne_eq, ← BitVec.toNat_inj, toNat_maskOp, toNat_maskOpLowByte, BitVec.toNat_ofNat] at hop hcls hret
  exact decode_eq_sys (by omega) (by omega) (by omega)

end Sys2Proof

namespace Sys2Proof.Machine

/-- SYS only advances `pc` (R140). -/
theorem exec_sys (nnn : Imm12) (s : State) : exec (.sys nnn) s = .next s.advance := rfl

/-- A tick whose instruction leaves a running state is that instruction, run with `changed` cleared, and then the timers
(R133). -/
theorem step_eq_stepTimers {s u : State} (hs : s.status = .running) (hp : s.pc.toNat ≤ 4094)
    (hu : exec (decode s.fetchWord) s.clearChanged = .next u) (hrun : u.status = .running) :
    step s = .next u.stepTimers := by
  rw [step_running hs hp, runInstr, hu, ← State.finishTick_running hrun]

/-- Settles O28: the masks of the row leave the decoder's branch of SYS only, and its tick is `clearChanged`, `advance` and
`stepTimers` in turn, none of which touches `status`. -/
theorem sysIsANoOperation : Obligations.SysIsANoOperation := by
  refine ⟨fun _ => decode_eq_sys_of_mask, exec_sys, fun s nnn hs hp hw => ?_⟩
  have hexec : exec (decode s.fetchWord) s.clearChanged = .next s.clearChanged.advance := by
    rw [show decode s.fetchWord = .sys nnn from hw, exec_sys]
  exact step_eq_stepTimers hs hp hexec hs

end Sys2Proof.Machine
end

section
/-! PROOFS. LD Vx,kk and ADD Vx,kk (43_load_arith.md R160, R161): the words of their rows, and what writing one register and
advancing `pc` gives and leaves. -/

namespace Sys2Proof

/-- The top four bits of a word under the mask of a whole family are those of its match value (R97). -/
theorem toNat_div_of_maskOp {w m : Word} (h : w &&& 0xF000#16 = m) : w.toNat / 4096 = m.toNat / 4096 := by
  rw [← h, toNat_maskOp, Nat.mul_div_cancel _ (by decide)]

/-- Family 6 is LD Vx,kk (R93). -/
theorem decode_eq_ldImm_of_mask {w : Word} (hop : w &&& 0xF000#16 = 0x6000#16) :
    decode w = .ldImm (xField w) (kkField w) := by
  have hfamily : w.toNat / 4096 = 0x6 := toNat_div_of_maskOp hop
  simp [decode, toNat_opField, hfamily]

/-- Family 7 is ADD Vx,kk (R93). -/
theorem decode_eq_addImm_of_mask {w : Word} (hop : w &&& 0xF000#16 = 0x7000#16) :
    decode w = .addImm (xField w) (kkField w) := by
  have hfamily : w.toNat / 4096 = 0x7 := toNat_div_of_maskOp hop
  simp [decode, toNat_opField, hfamily]

end Sys2Proof

namespace Sys2Proof.Machine

/-- LD Vx,kk writes the immediate byte and advances (R160). -/
theorem exec_ldImm (x : Reg) (kk : Byte) (s : State) : exec (.ldImm x kk) s = .next (s.setV x kk).advance := rfl

/-- ADD Vx,kk writes the 8-bit sum and advances (R161). -/
theorem exec_addImm (x : Reg) (kk : Byte) (s : State) :
    exec (.addImm x kk) s = .next (s.setV x (s.readV x + kk)).advance := rfl

/-- Advancing `pc` leaves every register. -/
@[simp] theorem State.readV_advance (s : State) (r : Reg) : s.advance.readV r = s.readV r := State.readV_of_v s.advance_v r

/-- A register reads as the value just written to it. -/
@[simp] theorem State.readV_setV_same (s : State) (r : Reg) (b : Byte) : (s.setV r b).readV r = b := by
  rw [State.readV_setV, if_pos rfl]

/-- A write to one register leaves every other. -/
theorem State.readV_setV_of_ne (s : State) {r q : Reg} (h : q ≠ r) (b : Byte) : (s.setV r b).readV q = s.readV q := by
  rw [State.readV_setV, if_neg h.symm]

/-- What an instruction that writes one register and advances gives: the byte in that register, every other register as it
was, and nothing else changed but `pc`. -/
theorem State.setV_advance_spec (s : State) (x : Reg) (b : Byte) :
    (s.setV x b).advance.readV x = b ∧ (∀ r, r ≠ x → (s.setV x b).advance.readV r = s.readV r) ∧
    (s.setV x b).advance = { s with v := (s.setV x b).advance.v, pc := s.pc + 2 } := by
  refine ⟨by simp, fun r hr => ?_, rfl⟩
  rw [State.readV_advance, State.readV_setV_of_ne s hr]

/-- Settles O39: the mask of the row leaves the decoder's branch 6 only, and the instruction writes one register and
advances. -/
theorem loadImmediateWritesVx : Obligations.LoadImmediateWritesVx :=
  ⟨fun _ => decode_eq_ldImm_of_mask, fun x kk s => ⟨_, exec_ldImm x kk s, s.setV_advance_spec x kk⟩⟩

/-- Settles O40: as for LD Vx,kk, where the byte written is a sum of bytes, which as a number is the sum modulo 256. -/
theorem addImmediateWrapsWithoutCarry : Obligations.AddImmediateWrapsWithoutCarry := by
  refine ⟨fun _ => decode_eq_addImm_of_mask, fun x kk s => ⟨_, exec_addImm x kk s, ?_⟩⟩
  obtain ⟨hsum, hframe⟩ := s.setV_advance_spec x (s.readV x + kk)
  refine ⟨?_, hframe⟩
  rw [hsum, BitVec.toNat_add]

end Sys2Proof.Machine
end

section
/-! PROOFS. Decoding and encoding undo each other (30_encoding.md R93, R97, R100): the fields of a word put together from
fields, and the round trip in both directions. -/

namespace Sys2Proof

/-! ### The fields of a word `o nnn` -/

@[simp] theorem opField_append (o : Nibble) (u : Imm12) : opField (o ++ u) = o := by
  have := u.isLt
  apply BitVec.eq_of_toNat_eq
  rw [toNat_opField, toNat_append_add]
  omega

@[simp] theorem nnnField_append (o : Nibble) (u : Imm12) : nnnField (o ++ u) = u := by
  have := u.isLt
  apply BitVec.eq_of_toNat_eq
  rw [toNat_nnnField, toNat_append_add]
  omega

@[simp] theorem kkField_append (o : Nibble) (u : Imm12) : kkField (o ++ u) = Imm12.lowByte u := by
  apply BitVec.eq_of_toNat_eq
  rw [toNat_kkField, toNat_append_add, toNat_lowByte]
  omega

@[simp] theorem nField_append (o : Nibble) (u : Imm12) : nField (o ++ u) = Imm12.lowNibble u := by
  apply BitVec.eq_of_toNat_eq
  rw [toNat_nField, toNat_append_add, toNat_lowNibble]
  omega

/-! ### The fields of a word `o x kk` -/

@[simp] theorem opField_append_append (o x : Nibble) (kk : Byte) : opField (o ++ x ++ kk) = o := by
  have := x.isLt; have := kk.isLt
  apply BitVec.eq_of_toNat_eq
  rw [toNat_opField, toNat_append_add, toNat_append_add]
  omega

@[simp] theorem uField_append_append (o u : Nibble) (kk : Byte) : uField (o ++ u ++ kk) = u := by
  have := u.isLt; have := kk.isLt
  apply BitVec.eq_of_toNat_eq
  rw [toNat_uField, toNat_append_add, toNat_append_add]
  omega

@[simp] theorem kkField_append_append (o x : Nibble) (kk : Byte) : kkField (o ++ x ++ kk) = kk := by
  have := kk.isLt
  apply BitVec.eq_of_toNat_eq
  rw [toNat_kkField, toNat_append_add, toNat_append_add]
  omega

/-- A register index survives the way through its four bits. -/
@[simp] theorem xField_append_append (o : Nibble) (x : Reg) (kk : Byte) : xField (o ++ regBits x ++ kk) = x := by
  have := x.isLt; have := kk.isLt
  apply Fin.ext
  rw [val_xField, toNat_append_add, toNat_append_add, toNat_regBits]
  omega

/-! ### The fields of a word `o x y n` -/

@[simp] theorem opField_append_nibbles (o x y n : Nibble) : opField (o ++ x ++ y ++ n) = o := by
  have := x.isLt; have := y.isLt; have := n.isLt
  apply BitVec.eq_of_toNat_eq
  rw [toNat_opField, toNat_append_add, toNat_append_add, toNat_append_add]
  omega

@[simp] theorem xField_append_nibbles (o : Nibble) (x : Reg) (y n : Nibble) : xField (o ++ regBits x ++ y ++ n) = x := by
  have := x.isLt; have := y.isLt; have := n.isLt
  apply Fin.ext
  rw [val_xField, toNat_append_add, toNat_append_add, toNat_append_add, toNat_regBits]
  omega

@[simp] theorem yField_append_nibbles (o x : Nibble) (y : Reg) (n : Nibble) : yField (o ++ x ++ regBits y ++ n) = y := by
  have := y.isLt; have := n.isLt
  apply Fin.ext
  rw [val_yField, toNat_append_add, toNat_append_add, toNat_append_add, toNat_regBits]
  omega

@[simp] theorem nField_append_nibbles (o x y n : Nibble) : nField (o ++ x ++ y ++ n) = n := by
  have := n.isLt
  apply BitVec.eq_of_toNat_eq
  rw [toNat_nField, toNat_append_add, toNat_append_add, toNat_append_add]
  omega

/-! ### The round trip -/

/-- Along the constructors: the top four bits choose the branch of the decode tree, the checks of `wf` rule the earlier rows of
the branch out, and each field reads back. -/
theorem decode_encode {i : Instr} (h : i.wf = true) : decode (encode i) = i := by
  cases i
  case sys nnn | illegal8 u | illegalE u =>
    simp only [Instr.wf, bne_iff_ne, Bool.and_eq_true, BitVec.ofNat_eq_ofNat] at h
    simp [encode, decode, decodeFamily0, decodeFamily8, decodeFamilyE, h]
  case cls | ret => simp [encode, decode, decodeFamily0]
  case ldReg => simp [encode, decode, decodeFamily8]
  case drw => simp [encode, decode]
  case skp | sknp => simp [encode, decode, decodeFamilyE]
  all_goals simp [encode, decode]

/-- The two bytes of a word, high byte first, make the word (R60). -/
theorem highByte_append_lowByte (w : Word) : highByte w ++ lowByte w = w := by
  apply BitVec.eq_of_toNat_eq
  rw [toNat_append_add, highByte, lowByte, toNat_extract, toNat_extract]
  have := w.isLt
  omega

/-- The decoder reads a word from its two bytes and leaves the bytes that follow. -/
theorem decodeBytes_wordBytes_append (w : Word) (rest : List Byte) :
    decodeBytes (wordBytes w ++ rest) = .ok (decode w, rest) := by
  rw [wordBytes, List.cons_append, List.cons_append, List.nil_append, decodeBytes, highByte_append_lowByte]

/-- Settles O1: `decode_encode` on the word, and on the word read back from its bytes. -/
theorem decodeOfEncodeGivesTheInstruction : Obligations.DecodeOfEncodeGivesTheInstruction := by
  intro i rest h
  exact ⟨decode_encode h, by rw [encodeBytes, decodeBytes_wordBytes_append, decode_encode h]⟩

/-- The decode tree reaches a row only when the earlier rows have failed to match, as `wf` asks (R98). -/
theorem wf_decode (w : Word) : (decode w).wf = true := by
  have hbyte (k : Byte) : Imm12.lowByte (nnnField w) = k ↔ w.toNat % 256 = k.toNat := by
    rw [← BitVec.toNat_inj, toNat_lowByte, toNat_nnnField]
    omega
  have hnibble (k : Nibble) : Imm12.lowNibble (nnnField w) = k ↔ w.toNat % 16 = k.toNat := by
    rw [← BitVec.toNat_inj, toNat_lowNibble, toNat_nnnField]
    omega
  rcases decode_cases w with h | h | h | h | h | h | h | h | h | h | h | h | h | h | h | h | h | h | h | h | h <;>
    simp [h, Instr.wf, hbyte, hnibble]

/-- Settles O2: the reading is well formed, and no bit is lost in it. -/
theorem encodeOfDecodeGivesTheWord : Obligations.EncodeOfDecodeGivesTheWord := fun w => ⟨wf_decode w, encode_decode w⟩

end Sys2Proof
end

section
/-! PROOFS. The decode tree against the opcode table (30_encoding.md R97 to R100): what each row asks of a word as a number, the
first row that matches, and which rows overlap. -/

namespace Sys2Proof

/-- What the columns match and mask of R97 and R100 ask of a word, read as a number: its top four bits, and for some rows its
low byte or low nibble. -/
def rowTest (w : Nat) : OpcodeRow → Bool
  | .cls => w / 4096 == 0x0 && w % 256 == 0xE0
  | .ret => w / 4096 == 0x0 && w % 256 == 0xEE
  | .sys => w / 4096 == 0x0
  | .jp => w / 4096 == 0x1
  | .call => w / 4096 == 0x2
  | .se => w / 4096 == 0x3
  | .sne => w / 4096 == 0x4
  | .ldImm => w / 4096 == 0x6
  | .addImm => w / 4096 == 0x7
  | .ldReg => w / 4096 == 0x8 && w % 16 == 0x0
  | .ldI => w / 4096 == 0xA
  | .jpV0 => w / 4096 == 0xB
  | .rnd => w / 4096 == 0xC
  | .drw => w / 4096 == 0xD
  | .skp => w / 4096 == 0xE && w % 256 == 0x9E
  | .sknp => w / 4096 == 0xE && w % 256 == 0xA1
  | .illegal5 => w / 4096 == 0x5
  | .illegal8 => w / 4096 == 0x8
  | .illegal9 => w / 4096 == 0x9
  | .illegalE => w / 4096 == 0xE
  | .illegalF => w / 4096 == 0xF

theorem rowMatches_eq_rowTest (w : Word) (r : OpcodeRow) : rowMatches w r = rowTest w.toNat r := by
  rw [Bool.eq_iff_iff, rowMatches_iff]
  cases r <;>
    simp only [rowMask, rowMatch, rowTest, toNat_maskOp, toNat_maskOpLowByte, toNat_maskOpLowNibble, BitVec.toNat_ofNat,
      Bool.and_eq_true, beq_iff_eq] <;> omega

/-- Settles O3: along the branches of the decode tree, every row before the one of the branch fails its test. -/
theorem decodeTreeFollowsTheTable : Obligations.DecodeTreeFollowsTheTable := by
  intro w
  simp only [firstRow, opcodeRows, funext (rowMatches_eq_rowTest w)]
  rcases decode_cases w with h | h | h | h | h | h | h | h | h | h | h | h | h | h | h | h | h | h | h | h | h <;>
    simp [h, rowTest, rowOf]

/-- A word that matches one of rows 1 to 16 decodes to that row, but for a word of the row SYS, which may decode to CLS or
RET. -/
theorem rowOf_decode_of_rowMatches {w : Word} {r : OpcodeRow} (hr : r ∈ opcodeRows.take 16)
    (h : rowMatches w r = true) :
    rowOf (decode w) = r ∨ (r = .sys ∧ (rowOf (decode w) = .cls ∨ rowOf (decode w) = .ret)) := by
  rw [rowMatches_eq_rowTest] at h
  cases r
  case sys =>
    have hop : w.toNat / 4096 = 0x0 := by simpa [rowTest] using h
    have hfamily : decode w = decodeFamily0 w := by simp [decode, toNat_opField, hop]
    rw [hfamily]
    obtain ⟨-, h⟩ | ⟨-, h⟩ | ⟨-, -, h⟩ := decodeFamily0_cases w <;> simp [h, rowOf]
  case illegal5 | illegal8 | illegal9 | illegalE | illegalF => simp [opcodeRows] at hr
  all_goals
    simp only [rowTest, Bool.and_eq_true, beq_iff_eq] at h
    simp [decode, decodeFamily0, decodeFamily8, decodeFamilyE, toNat_opField, kkField_eq_iff, nField_eq_iff, h, rowOf]

/-- Settles O4: two rows that match a word are both the row it decodes to, or one is SYS and the word decodes to the other. -/
theorem rowsOverlapOnlyInFamilyZero : Obligations.RowsOverlapOnlyInFamilyZero := by
  intro w a b ha hb hwa hwb
  obtain rfl | ⟨rfl, hdec⟩ := rowOf_decode_of_rowMatches ha hwa
  · obtain hab | hab := rowOf_decode_of_rowMatches hb hwb
    · exact .inl hab
    · exact .inr (.inr hab)
  · obtain rfl | ⟨rfl, -⟩ := rowOf_decode_of_rowMatches hb hwb
    · exact .inr (.inl ⟨rfl, hdec⟩)
    · exact .inl rfl

/-- Settles O6: the decoder evaluated on each of the 22 words. -/
theorem sampleWordsDecodeAsTabled : Obligations.SampleWordsDecodeAsTabled := by
  unfold Obligations.SampleWordsDecodeAsTabled
  decide

end Sys2Proof
end

section
/-! PROOFS. What an instruction and a tick do, in two parts that later proofs cite in place of the meanings: whether a fault is
raised, and what a completed instruction leaves (60_exceptions.md R180 to R191, 10_state.md R22, R25). -/

namespace Sys2Proof.Machine

open Claims (pcAfter keyDown)

/-- The fault an instruction raises in a state, if any, with what it records (R180 to R188). -/
def faultOf (i : Instr) (s : State) : Option (FaultKind × Word) :=
  match i with
  | .ret _ => if s.stack = [] then some (.stackUnderflow, s.pc) else none
  | .call _ => if s.stackFull = true then some (.stackOverflow, s.pc) else none
  | .skp x | .sknp x => if 15 < (s.readV x).toNat then some (.keyRange, wordOfByte (s.readV x)) else none
  | .drw _ _ n => if s.spriteOutOfRange n = true then some (.spriteRange, BitVec.ofNat 16 (s.lastRowAddr n)) else none
  | .illegal5 _ | .illegal8 _ | .illegal9 _ | .illegalE _ | .illegalF _ => some (.invalidOpcode, encode i)
  | _ => none

/-- What an instruction that completes writes besides `pc` (the tables of R22 and R65). -/
def effect (i : Instr) (s : State) : State :=
  match i with
  | .cls _ => s.setFb blankScreen
  | .ret _ => s.popped
  | .call _ => s.push (s.pc + 2)
  | .ldImm x kk => s.setV x kk
  | .addImm x kk => s.setV x (s.readV x + kk)
  | .ldReg x y => s.setV x (s.readV y)
  | .ldI nnn => s.setIndex (immAddr nnn)
  | .rnd x kk => s.drawn.setV x (s.nextFreeByte &&& kk)
  | .drw x y n =>
    (s.setFb (drawRows s (s.originX x) (s.originY y) n.toNat).1).setDrawFlags
      (drawRows s (s.originX x) (s.originY y) n.toNat).2
  | _ => s

/-- The state an instruction that completes leaves: its effect, and `pc` by the table of R25. -/
def completed (i : Instr) (s : State) : State := (effect i s).setPc (pcAfter s i)

/-! ### One instruction -/

/-- A skip writes `pc` only, whichever way it goes. -/
theorem State.skipIf_eq_setPc (s : State) (c : Bool) : s.skipIf c = s.setPc (if c = true then s.pc + 4 else s.pc + 2) := by
  cases c <;> rfl

/-- The key of a number up to 15, as the statements read it. -/
theorem keyDown_of_lt (s : State) {k : Nat} (h : k < 16) : keyDown s k = s.keys.get ⟨k, h⟩ := by
  simp [keyDown, Vector.get_eq_getElem, List.getD_eq_getElem?_getD, h]

/-- A key skip tests the key that the register names. -/
theorem State.skipOnKey_of_le (s : State) {x : Reg} (h : (s.readV x).toNat ≤ 15) (wanted : Bool) :
    s.skipOnKey x wanted = s.skipIf (keyDown s (s.readV x).toNat == wanted) := by
  obtain ⟨hlt, e⟩ | ⟨hge, -⟩ := s.skipOnKey_cases x wanted
  · rw [e, keyDown_of_lt s hlt]
  · omega

/-- A key skip on a register that names no key. -/
theorem State.skipOnKey_of_gt (s : State) {x : Reg} (h : 15 < (s.readV x).toNat) (wanted : Bool) :
    s.skipOnKey x wanted = s.raise .keyRange (wordOfByte (s.readV x)) := by
  obtain ⟨hlt, -⟩ | ⟨-, e⟩ := s.skipOnKey_cases x wanted
  · omega
  · exact e

/-- The top of a stack that is not empty. -/
theorem State.top_of_ne_nil {s : State} (h : s.stack ≠ []) : s.top = some (s.stack.getLastD 0) := by
  rw [State.top, List.getLastD_eq_getLast?, List.getLast?_eq_some_getLast h, Option.getD_some]

/-- An instruction that raises a fault does nothing else. -/
theorem exec_of_faultOf_eq_some {i : Instr} {s : State} {kind : FaultKind} {info : Word}
    (h : faultOf i s = some (kind, info)) : exec i s = .next (s.raise kind info) := by
  cases i <;> simp only [faultOf, Option.ite_none_right_eq_some, Option.some.injEq, Prod.mk.injEq, reduceCtorEq] at h
  case ret u =>
    obtain ⟨hempty, rfl, rfl⟩ := h
    rw [exec, execRet, State.top_eq_none.2 hempty]
  case call nnn =>
    obtain ⟨hfull, rfl, rfl⟩ := h
    rw [exec, execCall, if_pos hfull]
  case skp x =>
    obtain ⟨hkey, rfl, rfl⟩ := h
    rw [exec, execSkp, s.skipOnKey_of_gt hkey]
  case sknp x =>
    obtain ⟨hkey, rfl, rfl⟩ := h
    rw [exec, execSknp, s.skipOnKey_of_gt hkey]
  case drw x y n =>
    obtain ⟨hrange, rfl, rfl⟩ := h
    rw [exec, execDrw, if_pos hrange]
  case illegal5 | illegal8 | illegal9 | illegalE | illegalF =>
    obtain ⟨rfl, rfl⟩ := h
    exact exec_of_illegal rfl s

/-- An instruction that raises no fault completes. -/
theorem exec_of_faultOf_eq_none {i : Instr} {s : State} (h : faultOf i s = none) : exec i s = .next (completed i s) := by
  cases i <;> simp only [faultOf, ite_eq_right_iff, reduceCtorEq, imp_false, not_lt] at h
  case ret u =>
    rw [exec, execRet, State.top_of_ne_nil h]
    rfl
  case call nnn =>
    rw [exec, execCall, if_neg h]
    rfl
  case se x kk => simp [exec, execSe, State.skipIf_eq_setPc, completed, effect, pcAfter]
  case sne x kk => simp [exec, execSne, State.skipIf_eq_setPc, completed, effect, pcAfter]
  case skp x => simp [exec, execSkp, s.skipOnKey_of_le h, State.skipIf_eq_setPc, completed, effect, pcAfter]
  case sknp x => simp [exec, execSknp, s.skipOnKey_of_le h, State.skipIf_eq_setPc, completed, effect, pcAfter]
  case drw x y n =>
    rw [exec, execDrw, if_neg h]
    rfl
  all_goals rfl

/-- Everything an instruction can do: raise its fault and nothing else, or complete. -/
theorem exec_inv {i : Instr} {s t : State} (h : exec i s = .next t) :
    (∃ kind info, faultOf i s = some (kind, info) ∧ t = s.raise kind info) ∨ (faultOf i s = none ∧ t = completed i s) := by
  cases hf : faultOf i s with
  | some f =>
    rw [exec_of_faultOf_eq_some hf] at h
    injection h with h
    exact .inl ⟨f.1, f.2, rfl, h.symm⟩
  | none =>
    rw [exec_of_faultOf_eq_none hf] at h
    injection h with h
    exact .inr ⟨rfl, h.symm⟩

/-- No instruction that completes writes `status`. -/
@[simp] theorem completed_status (i : Instr) (s : State) : (completed i s).status = s.status := by cases i <;> rfl

@[simp] theorem completed_pc (i : Instr) (s : State) : (completed i s).pc = pcAfter s i := rfl

/-! ### One tick -/

/-- The fault that the tick of a running engine raises, if any: that of the fetch (R183), or of the instruction. -/
def tickFault (s : State) : Option (FaultKind × Word) :=
  if 4094 < s.pc.toNat then some (.fetchRange, s.pc) else faultOf (decode s.fetchWord) s

/-- The state that a tick of a running engine leaves when it completes. -/
def tickCompleted (s : State) : State := (completed (decode s.fetchWord) s.clearChanged).stepTimers

/-- No instruction reads `changed` to decide on a fault. -/
@[simp] theorem faultOf_clearChanged (i : Instr) (s : State) : faultOf i s.clearChanged = faultOf i s := by cases i <;> rfl

/-- `pc` after an instruction does not depend on `changed`. -/
@[simp] theorem pcAfter_clearChanged (i : Instr) (s : State) : pcAfter s.clearChanged i = pcAfter s i := by cases i <;> rfl

theorem step_of_tickFault_eq_some {s : State} {kind : FaultKind} {info : Word} (hs : s.status = .running)
    (h : tickFault s = some (kind, info)) : step s = .next (s.clearChanged.raise kind info) := by
  unfold tickFault at h
  split at h
  case isTrue hpc =>
    cases h
    simp [step, tick, hs, State.fetchInRange, hpc]
  case isFalse hpc =>
    rw [step_running hs (by omega), runInstr, exec_of_faultOf_eq_some (by rwa [faultOf_clearChanged])]
    simp

theorem step_of_tickFault_eq_none {s : State} (hs : s.status = .running) (h : tickFault s = none) :
    step s = .next (tickCompleted s) := by
  unfold tickFault at h
  split at h
  case isTrue => cases h
  case isFalse hpc =>
    exact step_eq_stepTimers hs (by omega) (exec_of_faultOf_eq_none (by rwa [faultOf_clearChanged]))
      (by rw [completed_status]; exact hs)

/-- Everything a tick with a next state can have been: one that raised its fault and did nothing else but clear `changed`, or
one that completed. -/
theorem step_inv {s t : State} (h : step s = .next t) : s.status = .running ∧
    ((∃ kind info, tickFault s = some (kind, info) ∧ t = s.clearChanged.raise kind info) ∨
     (tickFault s = none ∧ t = tickCompleted s)) := by
  have hs : s.status = .running := (step_cases h).1
  refine ⟨hs, ?_⟩
  cases hf : tickFault s with
  | some f =>
    rw [step_of_tickFault_eq_some hs hf] at h
    injection h with h
    exact .inl ⟨f.1, f.2, rfl, h.symm⟩
  | none =>
    rw [step_of_tickFault_eq_none hs hf] at h
    injection h with h
    exact .inr ⟨rfl, h.symm⟩

/-- A tick that completed leaves a running engine. -/
theorem tickCompleted_status {s : State} (hs : s.status = .running) : (tickCompleted s).status = .running := by
  rw [tickCompleted, State.stepTimers_status, completed_status]
  exact hs

end Sys2Proof.Machine
end

section
/-! PROOFS. The invariant of the engine's state (10_state.md R26 (b), R30, R37, R40): it holds after reset, and every tick and
every operation of the host keeps it. -/

namespace Sys2Proof.Machine

open Claims (pcAfter)

/-- The invariant speaks of memory, I, `pc` and the stack only. -/
theorem State.Inv.of_same {s t : State} (h : s.Inv) (hmem : t.mem = s.mem) (hindex : t.index = s.index)
    (hpc : t.pc = s.pc) (hstack : t.stack = s.stack) : t.Inv where
  memory := by rw [hmem]; exact h.memory
  index := by rw [hindex]; exact h.index
  pc := by rw [hpc]; exact h.pc
  entries := by rw [hstack]; exact h.entries
  depth := by rw [hstack]; exact h.depth

/-! ### Ticks -/

/-- The immediate address field as an address (R94). -/
@[simp] theorem toNat_immAddr (nnn : Imm12) : (immAddr nnn).toNat = nnn.toNat := by
  have := nnn.isLt
  rw [immAddr, BitVec.toNat_setWidth]
  omega

/-- The target of JP V0 does not wrap (R144, R165 (c)). -/
theorem State.toNat_offsetTarget (s : State) (nnn : Imm12) :
    (s.offsetTarget nnn).toNat = nnn.toNat + (s.readV 0).toNat := by
  have := nnn.isLt; have := (s.readV 0).isLt
  rw [State.offsetTarget, BitVec.toNat_add, toNat_immAddr, wordOfByte, BitVec.toNat_setWidth]
  omega

/-- The entry RET pops is one of the stack's, or 0 where there is none. -/
theorem State.Inv.toNat_getLastD_le {s : State} (h : s.Inv) : (s.stack.getLastD 0).toNat ≤ 4096 := by
  by_cases hempty : s.stack = []
  · simp [hempty]
  · rw [List.getLastD_eq_getLast?, List.getLast?_eq_some_getLast hempty, Option.getD_some]
    exact h.entries _ (List.getLast_mem hempty)

/-- Advancing `pc` from an address that a fetch can start at does not wrap, and stays well below the bound (R26 (b)). -/
theorem toNat_pc_add_le {pc : Word} (hpc : pc.toNat ≤ 4094) : (pc + 2).toNat ≤ 4350 ∧ (pc + 4).toNat ≤ 4350 := by
  constructor <;> rw [BitVec.toNat_add] <;> simp only [BitVec.ofNat_eq_ofNat, BitVec.toNat_ofNat] <;> omega

/-- Row by row of the table of R25, `pc` stays within its bound: the largest value is that of JP V0, 4095 + 255. -/
theorem State.Inv.toNat_pcAfter_le {s : State} (h : s.Inv) (hpc : s.pc.toNat ≤ 4094) (i : Instr) :
    (pcAfter s i).toNat ≤ 4350 := by
  obtain ⟨htwo, hfour⟩ := toNat_pc_add_le hpc
  cases i
  case ret => exact h.toNat_getLastD_le.trans (by decide)
  case jp nnn | call nnn =>
    have := nnn.isLt
    exact (toNat_immAddr nnn).trans_le (by omega)
  case jpV0 nnn =>
    have := nnn.isLt; have := (s.readV 0).isLt
    exact (s.toNat_offsetTarget nnn).trans_le (by omega)
  case se | sne | skp | sknp =>
    rw [pcAfter]
    split <;> assumption
  case illegal5 | illegal8 | illegal9 | illegalE | illegalF => exact h.pc
  all_goals exact htwo

/-- An instruction that completes keeps the invariant. LD I writes a 12-bit address, RET takes an entry off the stack, and CALL
puts one on, which is at most 4094 + 2 and has room, as the stack is not full. -/
theorem completed_inv {s : State} (h : s.Inv) (hpc : s.pc.toNat ≤ 4094) {i : Instr} (hfault : faultOf i s = none) :
    (completed i s).Inv where
  memory := by cases i <;> exact h.memory
  pc := h.toNat_pcAfter_le hpc i
  index := by
    cases i
    case ldI nnn =>
      have := nnn.isLt
      exact (toNat_immAddr nnn).trans_le (by omega)
    all_goals exact h.index
  entries := by
    cases i
    case ret => exact fun w hw => h.entries w (List.mem_of_mem_dropLast hw)
    case call nnn =>
      intro w hw
      obtain hw | hw := List.mem_append.1 hw
      · exact h.entries w hw
      · rw [List.mem_singleton.1 hw, BitVec.toNat_add]
        simp only [BitVec.ofNat_eq_ofNat, BitVec.toNat_ofNat]
        omega
    all_goals exact h.entries
  depth := by
    cases i
    case ret => exact depthAdmits_mono (by simp [completed, effect]) h.depth
    case call nnn =>
      have hroom : s.stackFull = false := by simpa [faultOf] using hfault
      simpa [completed, effect] using depthAdmits_succ h.depth hroom
    all_goals exact h.depth

/-- A tick raises no fault exactly when its fetch is in range and its instruction raises none. -/
theorem tickFault_eq_none_iff {s : State} :
    tickFault s = none ↔ s.pc.toNat ≤ 4094 ∧ faultOf (decode s.fetchWord) s = none := by
  rw [tickFault]
  by_cases hpc : 4094 < s.pc.toNat
  · simp [hpc, Nat.not_le.2 hpc]
  · simp [hpc, Nat.not_lt.1 hpc]

/-- Settles O18: a fault holds the four items the invariant speaks of, and a completed instruction keeps it. -/
theorem everyTickKeepsTheInvariant : Obligations.EveryTickKeepsTheInvariant := by
  intro s t hinv h
  obtain ⟨-, ⟨kind, info, -, rfl⟩ | ⟨hnone, rfl⟩⟩ := step_inv h
  · exact hinv.of_same rfl rfl rfl rfl
  · obtain ⟨hpc, hfault⟩ := tickFault_eq_none_iff.1 hnone
    have hclear : s.clearChanged.Inv := hinv.of_same rfl rfl rfl rfl
    have hdone := completed_inv hclear hpc (by rwa [faultOf_clearChanged])
    exact hdone.of_same rfl rfl rfl rfl

/-! ### The host's operations -/

/-- Each clause holds of the reset values, and every STACK_DEPTH admits the sentinel. -/
theorem State.reset_inv : State.reset.Inv where
  memory := Memory.wf_reset
  index := Nat.zero_le _
  pc := by simp [State.reset]
  entries := by simp [State.reset]
  depth := depthAdmits_one _

/-- Settles O19. -/
theorem resetMeetsTheInvariant : Obligations.ResetMeetsTheInvariant := State.reset_inv

/-- `reset()` from any state gives the invariant. -/
theorem hostReset_inv (s : State) : (hostReset s).Inv := State.reset_inv.of_same rfl rfl rfl rfl

/-- A load gives the invariant, or leaves the state: the image is put into memory by writes, which keep its form. -/
theorem load_inv {s : State} (h : s.Inv) (image : List Byte) : (load image s).1.Inv := by
  obtain ⟨-, e⟩ | ⟨-, e⟩ := load_cases image s <;> rw [e]
  · exact h
  · exact { hostReset_inv s with memory := Memory.wf_writeBytes image _ (hostReset_inv s).memory }

/-- Settles O20: reset and load give the invariant, the keypad and timer writes leave what it speaks of. -/
theorem hostOperationsKeepTheInvariant : Obligations.HostOperationsKeepTheInvariant := fun s h =>
  ⟨hostReset_inv s, load_inv h, fun _ => h.of_same rfl rfl rfl rfl, fun _ _ => h.of_same rfl rfl rfl rfl⟩

/-! ### The form of memory -/

@[simp] theorem Memory.read_cons_self (a : Nat) (v : Byte) (m : Memory) : Memory.read ((a, v) :: m) a = v := if_pos rfl

/-- The first address of a canonical memory reads otherwise in one that lists higher addresses only: there it reads as reset
leaves it, and no cell holds that. -/
theorem Memory.read_ne_of_below {a b : Nat} {v : Byte} {m m' : Memory} (hv : v ≠ resetByte a) (hlt : a < b)
    (h' : Memory.wfFrom b m' = true) : Memory.read ((a, v) :: m) a ≠ Memory.read m' a := by
  rwa [Memory.read_cons_self, Memory.read_below hlt h']

/-- Two canonical memories that read alike are equal, by induction on both: neither can list an address below those of the
other, so their first addresses agree, and then so do the values there and the tails. -/
theorem Memory.eq_of_read_eq : ∀ {lo : Nat} {m m' : Memory}, Memory.wfFrom lo m = true → Memory.wfFrom lo m' = true →
    (∀ a, Memory.read m a = Memory.read m' a) → m = m'
  | _, [], [], _, _, _ => rfl
  | _, [], (b, u) :: m', _, h', hread => by
    obtain ⟨-, -, hu, -⟩ := Memory.wfFrom_cons.1 h'
    exact absurd (hread b).symm (Memory.read_ne_of_below hu (Nat.lt_succ_self b) rfl)
  | _, (a, v) :: m, [], h, _, hread => by
    obtain ⟨-, -, hv, -⟩ := Memory.wfFrom_cons.1 h
    exact absurd (hread a) (Memory.read_ne_of_below hv (Nat.lt_succ_self a) rfl)
  | _, (a, v) :: m, (b, u) :: m', h, h', hread => by
    obtain ⟨-, ha, hv, hm⟩ := Memory.wfFrom_cons.1 h
    obtain ⟨-, hb, hu, hm'⟩ := Memory.wfFrom_cons.1 h'
    obtain hlt | rfl | hgt := Nat.lt_trichotomy a b
    · exact absurd (hread a) (Memory.read_ne_of_below hv hlt (Memory.wfFrom_cons.2 ⟨le_refl b, hb, hu, hm'⟩))
    · have hhead : v = u := by simpa using hread a
      have htail : ∀ c, Memory.read m c = Memory.read m' c := by
        intro c
        by_cases hc : c = a
        · rw [hc, Memory.read_below (Nat.lt_succ_self a) hm, Memory.read_below (Nat.lt_succ_self a) hm']
        · simpa [Memory.read, hc] using hread c
      rw [hhead, Memory.eq_of_read_eq hm hm' htail]
    · exact absurd (hread b).symm (Memory.read_ne_of_below hu hgt (Memory.wfFrom_cons.2 ⟨le_refl a, ha, hv, hm⟩))

/-- Settles O22. -/
theorem memoryFormIsCanonical : Obligations.MemoryFormIsCanonical := fun _ _ => Memory.eq_of_read_eq

/-! ### What a fault records -/

/-- What an instruction's fault records is true of the state it is raised in. I is at most 0x0FFF, so the address of a sprite's
last row is not cut. -/
theorem State.Inv.faultExplained_of_faultOf {s : State} (h : s.Inv) (hpc : s.pc.toNat ≤ 4094) {kind : FaultKind}
    {info : Word} (hf : faultOf (decode s.fetchWord) s = some (kind, info)) : s.FaultExplained kind info := by
  have hword : encode (decode s.fetchWord) = s.fetchWord := encode_decode _
  have hlegal : (decode s.fetchWord).isLegal = false → s.FaultExplained .invalidOpcode s.fetchWord := fun e => ⟨hpc, rfl, e⟩
  generalize decode s.fetchWord = i at hf hword hlegal
  cases i <;> simp only [faultOf, Option.ite_none_right_eq_some, Option.some.injEq, Prod.mk.injEq, reduceCtorEq] at hf
  case ret u =>
    obtain ⟨hempty, rfl, rfl⟩ := hf
    exact ⟨rfl, hempty⟩
  case call nnn =>
    obtain ⟨hfull, rfl, rfl⟩ := hf
    exact ⟨rfl, hfull⟩
  case skp x | sknp x =>
    obtain ⟨hkey, rfl, rfl⟩ := hf
    refine ⟨x, rfl, ?_⟩
    rw [wordOfByte, BitVec.toNat_setWidth]
    omega
  case drw x y n =>
    obtain ⟨hrange, rfl, rfl⟩ := hf
    obtain ⟨hrow, hlast⟩ := (s.spriteOutOfRange_iff n).1 hrange
    have hindex := h.index
    have hn := n.isLt
    have hexact : (BitVec.ofNat 16 (s.lastRowAddr n)).toNat = s.index.toNat + n.toNat - 1 := by
      rw [BitVec.toNat_ofNat, State.lastRowAddr]
      omega
    exact ⟨n.toNat, hrow, by omega, hexact, by omega⟩
  case illegal5 | illegal8 | illegal9 | illegalE | illegalF =>
    obtain ⟨rfl, rfl⟩ := hf
    rw [hword]
    exact hlegal rfl

/-- Settles O21: the fault is that of the fetch or of the instruction, and the items that explain it are held. -/
theorem latchedFaultTellsItsCause : Obligations.LatchedFaultTellsItsCause := by
  intro s t kind info hinv h ht
  obtain ⟨hs, ⟨kind', info', hfault, rfl⟩ | ⟨-, rfl⟩⟩ := step_inv h
  · obtain ⟨rfl, rfl⟩ : kind' = kind ∧ info' = info := by simpa using ht
    have hexplained : s.FaultExplained kind' info' := by
      unfold tickFault at hfault
      split at hfault
      case isTrue hpc =>
        cases hfault
        exact ⟨rfl, hpc⟩
      case isFalse hpc => exact hinv.faultExplained_of_faultOf (by omega) hfault
    cases kind' <;> exact hexplained
  · rw [tickCompleted_status hs] at ht
    cases ht

end Sys2Proof.Machine
end

section
/-! PROOFS. The tick (40_cycle.md R120 to R133): what it runs, which faults it raises, and what it leaves in `pc`, memory, the
keypad and every other item. -/

namespace Sys2Proof.Machine

/-! ### What ends a tick -/

/-- The countdown that ends a tick, written with the test the statements use (R128 to R130). -/
theorem State.finishTick_eq_ite (s : State) :
    s.finishTick = if s.status = .running then { s with dt := countDown s.dt, st := countDown s.st } else s := by
  cases hs : s.status with
  | running => rw [State.finishTick_running hs, if_pos rfl, State.stepTimers, State.setTimerPair, hs]
  | faulted kind info => simp [State.finishTick, hs]

/-- Settles O7: the two bytes decode to the instruction that the tick runs, and `exec` always answers a next state, which the
timers follow. -/
theorem stepRunsTheDecodedInstruction : Obligations.StepRunsTheDecodedInstruction := by
  intro s i hs hpc hbytes
  have hi : decode s.fetchWord = i := congrArg Prod.fst (Except.ok.inj hbytes)
  obtain ⟨u, hu⟩ := exec_next i s.clearChanged
  have hexec : exec i { s with changed := false } = .next u := hu
  rw [step_running hs hpc, hi, runInstr, hu, hexec]
  exact congrArg Host.Outcome.next u.finishTick_eq_ite

/-- A tick returns the fault that is latched in its next state (R120, R191). -/
theorem tickResult_of_faulted {s t : State} {kind : FaultKind} {info : Word} (h : step s = .next t)
    (ht : t.status = .faulted kind info) : tickResult s = some (.fault kind info) := by
  have htick : tick s = .next t := h
  simp [tickResult, htick, ht]

/-- Settles O8: the fetch faults before any instruction. -/
theorem fetchPastMemoryRaisesFetchRange : Obligations.FetchPastMemoryRaisesFetchRange := by
  intro s hs hpc
  have hstep := step_of_tickFault_eq_some hs (if_pos hpc)
  exact ⟨hstep, tickResult_of_faulted hstep rfl⟩

/-- Settles O9. -/
theorem haltedEngineReturnsTheLatchedFault : Obligations.HaltedEngineReturnsTheLatchedFault := by
  intro s kind info hs
  have htick : tick s = .fault (.halted kind info) := step_halted hs
  exact ⟨htick, by rw [tickResult, htick]⟩

/-- Settles O10: a tick that did not complete only raised its fault, on the state with `changed` cleared. -/
theorem tickFaultsArePrecise : Obligations.TickFaultsArePrecise := by
  intro s t kind info h ht
  refine ⟨?_, tickResult_of_faulted h ht⟩
  obtain ⟨hs, ⟨kind', info', -, rfl⟩ | ⟨-, rfl⟩⟩ := step_inv h
  · rw [← ht]
    rfl
  · rw [tickCompleted_status hs] at ht
    cases ht

/-- Settles O15: a tick that completes is given by `pcAfter` itself, and a fault holds `pc`. -/
theorem pcAfterEveryTick : Obligations.PcAfterEveryTick := by
  intro s t h
  obtain ⟨hs, ⟨kind, info, -, rfl⟩ | ⟨-, rfl⟩⟩ := step_inv h
  · exact ⟨nofun, fun _ => rfl⟩
  · exact ⟨fun _ => pcAfter_clearChanged _ s, fun hne => absurd (tickCompleted_status hs) hne⟩

/-! ### Who writes what: the writers of an item, or the item is unchanged -/

section
variable {i : Instr} {s t : State}

/-- I is written by LD I only (R30). -/
theorem exec_index (h : exec i s = .next t) : (∃ nnn, i = .ldI nnn) ∨ t.index = s.index := by
  obtain ⟨kind, info, -, rfl⟩ | ⟨-, rfl⟩ := exec_inv h
  · exact .inr rfl
  · cases i
    case ldI nnn => exact .inl ⟨nnn, rfl⟩
    all_goals exact .inr rfl

/-- The stack is written by RET and CALL only (R39). -/
theorem exec_stack (h : exec i s = .next t) : ((∃ u, i = .ret u) ∨ ∃ nnn, i = .call nnn) ∨ t.stack = s.stack := by
  obtain ⟨kind, info, -, rfl⟩ | ⟨-, rfl⟩ := exec_inv h
  · exact .inr rfl
  · cases i
    case ret u => exact .inl (.inl ⟨u, rfl⟩)
    case call nnn => exact .inl (.inr ⟨nnn, rfl⟩)
    all_goals exact .inr rfl

/-- The framebuffer is written by CLS and DRW only (R65). -/
theorem exec_fb (h : exec i s = .next t) : ((∃ u, i = .cls u) ∨ ∃ x y n, i = .drw x y n) ∨ t.fb = s.fb := by
  obtain ⟨kind, info, -, rfl⟩ | ⟨-, rfl⟩ := exec_inv h
  · exact .inr rfl
  · cases i
    case cls u => exact .inl (.inl ⟨u, rfl⟩)
    case drw x y n => exact .inl (.inr ⟨x, y, n, rfl⟩)
    all_goals exact .inr rfl

/-- Free bytes are used up by RND only (R44). -/
theorem exec_draws (h : exec i s = .next t) : (∃ x kk, i = .rnd x kk) ∨ t.draws = s.draws := by
  obtain ⟨kind, info, -, rfl⟩ | ⟨-, rfl⟩ := exec_inv h
  · exact .inr rfl
  · cases i
    case rnd x kk => exact .inl ⟨x, kk, rfl⟩
    all_goals exact .inr rfl

/-- An instruction writes `changed` only if it is DRW (R28). -/
theorem exec_changed (h : exec i s = .next t) : (∃ x y n, i = .drw x y n) ∨ t.changed = s.changed := by
  obtain ⟨kind, info, -, rfl⟩ | ⟨-, rfl⟩ := exec_inv h
  · exact .inr rfl
  · cases i
    case drw x y n => exact .inl ⟨x, y, n, rfl⟩
    all_goals exact .inr rfl

/-- The register that an instruction writes, if any (R22): Vx of the loads, ADD and RND, and VF of DRW. -/
def destination : Instr → Option Reg
  | .ldImm x _ | .addImm x _ | .ldReg x _ | .rnd x _ => some x
  | .drw _ _ _ => some 15
  | _ => none

/-- A register is written by an instruction of which it is the destination only (R22). -/
theorem exec_readV (h : exec i s = .next t) (r : Reg) : destination i = some r ∨ t.readV r = s.readV r := by
  refine or_iff_not_imp_left.2 fun hr => ?_
  obtain ⟨kind, info, -, rfl⟩ | ⟨-, rfl⟩ := exec_inv h
  · rfl
  · cases i <;> simp only [destination, Option.some.injEq] at hr
    case ldImm x kk => exact s.readV_setV_of_ne (Ne.symm hr) _
    case addImm x kk => exact s.readV_setV_of_ne (Ne.symm hr) _
    case ldReg x y => exact s.readV_setV_of_ne (Ne.symm hr) _
    case rnd x kk => exact s.drawn.readV_setV_of_ne (Ne.symm hr) _
    case drw x y n => exact State.readV_setV_of_ne _ (Ne.symm hr) _
    all_goals rfl

end

/-! ### What the end of a tick leaves -/

section
variable (s : State)

@[simp] theorem State.finishTick_v : s.finishTick.v = s.v := by unfold State.finishTick; split <;> rfl
@[simp] theorem State.finishTick_index : s.finishTick.index = s.index := by unfold State.finishTick; split <;> rfl
@[simp] theorem State.finishTick_stack : s.finishTick.stack = s.stack := by unfold State.finishTick; split <;> rfl
@[simp] theorem State.finishTick_mem : s.finishTick.mem = s.mem := by unfold State.finishTick; split <;> rfl
@[simp] theorem State.finishTick_fb : s.finishTick.fb = s.fb := by unfold State.finishTick; split <;> rfl
@[simp] theorem State.finishTick_keys : s.finishTick.keys = s.keys := by unfold State.finishTick; split <;> rfl
@[simp] theorem State.finishTick_changed : s.finishTick.changed = s.changed := by unfold State.finishTick; split <;> rfl
@[simp] theorem State.finishTick_draws : s.finishTick.draws = s.draws := by unfold State.finishTick; split <;> rfl

end

/-- Settles O16: no instruction writes memory or the keypad, nor do a fault, the timers and the clearing of `changed`. -/
theorem noTickWritesMemoryOrKeypad : Obligations.NoTickWritesMemoryOrKeypad := by
  intro s t h
  have hkeeps : t.mem = s.mem ∧ t.keys = s.keys := by
    obtain ⟨-, ⟨-, rfl⟩ | ⟨-, u, hu, rfl⟩⟩ := step_cases h
    · exact ⟨rfl, rfl⟩
    · obtain ⟨hmem, hkeys, -, -⟩ := exec_keeps hu
      exact ⟨u.finishTick_mem.trans hmem, u.finishTick_keys.trans hkeys⟩
  exact ⟨State.readMem_of_mem hkeeps.1, hkeeps⟩

/-- The instructions with a destination, as O17 lists them. -/
theorem eq_of_destination_eq_some {i : Instr} {r : Reg} (h : destination i = some r) :
    (∃ kk, i = .ldImm r kk) ∨ (∃ kk, i = .addImm r kk) ∨ (∃ y, i = .ldReg r y) ∨ (∃ kk, i = .rnd r kk) ∨
      (r = 15 ∧ ∃ x y n, i = .drw x y n) := by
  cases i <;> simp only [destination, Option.some.injEq, reduceCtorEq] at h <;> subst h <;> simp

/-- Settles O17: what a tick changed besides `changed`, `status`, `pc` and the timers, its instruction changed. -/
theorem onlyTheNamedInstructionsWrite : Obligations.OnlyTheNamedInstructionsWrite := by
  rintro s t i h rfl
  obtain ⟨-, ⟨-, rfl⟩ | ⟨-, u, hu, rfl⟩⟩ := step_cases h
  · exact ⟨(absurd rfl ·), (absurd rfl ·), (absurd rfl ·), (absurd rfl ·), fun _ => (absurd rfl ·)⟩
  · simp only [State.finishTick_index, State.finishTick_stack, State.finishTick_fb, State.finishTick_draws,
      State.readV_of_v u.finishTick_v]
    exact ⟨(exec_index hu).resolve_right, (exec_stack hu).resolve_right, (exec_fb hu).resolve_right,
      (exec_draws hu).resolve_right, fun r hr => eq_of_destination_eq_some ((exec_readV hu r).resolve_right hr)⟩

end Sys2Proof.Machine
end

section
/-! PROOFS. What has no influence on a tick (60_exceptions.md R196, 10_state.md R42, R44), and the jump to self (R232). -/

namespace Sys2Proof.Machine

/-! ### What a tick's fault depends on -/

/-- The fault of an instruction depends on `pc`, the registers, I and the stack only. -/
theorem faultOf_congr {s s' : State} (i : Instr) (hpc : s'.pc = s.pc) (hv : s'.v = s.v) (hindex : s'.index = s.index)
    (hstack : s'.stack = s.stack) : faultOf i s' = faultOf i s := by
  have hreg := State.readV_of_v hv
  have hfull : s'.stackFull = s.stackFull := by rw [State.stackFull, hstack, State.stackFull]
  have hlast : s'.lastRowAddr = s.lastRowAddr := by funext n; rw [State.lastRowAddr, hindex, State.lastRowAddr]
  have hrange : s'.spriteOutOfRange = s.spriteOutOfRange := by
    funext n; rw [State.spriteOutOfRange, hlast, State.spriteOutOfRange]
  cases i <;> simp only [faultOf, hreg, hfull, hlast, hrange, hpc, hstack]

/-- The word at `pc` depends on `pc` and memory only. -/
theorem fetchWord_congr {s s' : State} (hpc : s'.pc = s.pc) (hmem : s'.mem = s.mem) : s'.fetchWord = s.fetchWord := by
  simp only [State.fetchWord, State.readMem_of_mem hmem, hpc]

/-- Two states that agree in `status`, `pc`, memory, the registers, I and the stack raise the same fault or both complete. -/
theorem step_of_agree {s s' t : State} (h : step s = .next t) (hstatus : s'.status = s.status) (hpc : s'.pc = s.pc)
    (hmem : s'.mem = s.mem) (hv : s'.v = s.v) (hindex : s'.index = s.index) (hstack : s'.stack = s.stack) :
    (∃ kind info, t = s.clearChanged.raise kind info ∧ step s' = .next (s'.clearChanged.raise kind info)) ∨
    (t = tickCompleted s ∧ step s' = .next (tickCompleted s')) := by
  have hfault : tickFault s' = tickFault s := by
    simp only [tickFault, fetchWord_congr hpc hmem, hpc, faultOf_congr _ hpc hv hindex hstack]
  obtain ⟨hs, ⟨kind, info, hf, rfl⟩ | ⟨hf, rfl⟩⟩ := step_inv h
  · exact .inl ⟨kind, info, rfl, step_of_tickFault_eq_some (hstatus.trans hs) (hfault.trans hf)⟩
  · exact .inr ⟨rfl, step_of_tickFault_eq_none (hstatus.trans hs) (hfault.trans hf)⟩

/-! ### Other timers, another keypad, other free bytes -/

/-- No instruction reads the timers. -/
theorem completed_setTimerPair (i : Instr) (s : State) (d e : Byte) :
    completed i (s.setTimerPair d e) = (completed i s).setTimerPair d e := by cases i <;> rfl

/-- Settles O23: the same fault or the same completed instruction, then one countdown of whatever the timers are. -/
theorem timersDoNotInfluencePrograms : Obligations.TimersDoNotInfluencePrograms := by
  intro s t d e h
  obtain ⟨kind, info, rfl, hstep⟩ | ⟨rfl, hstep⟩ :=
    step_of_agree (s' := s.setTimerPair d e) h rfl rfl rfl rfl rfl rfl
  · exact ⟨d, e, hstep⟩
  · refine ⟨countDown d, countDown e, hstep.trans (congrArg Host.Outcome.next ?_)⟩
    exact congrArg State.stepTimers (completed_setTimerPair (decode s.fetchWord) s.clearChanged d e)

/-- Only SKP and SKNP read the keypad (R42). -/
theorem completed_setKeys {i : Instr} (hskp : ∀ x, i ≠ .skp x) (hsknp : ∀ x, i ≠ .sknp x) (s : State)
    (k : Vector Bool 16) : completed i (s.setKeys k) = (completed i s).setKeys k := by
  cases i
  case skp x => exact absurd rfl (hskp x)
  case sknp x => exact absurd rfl (hsknp x)
  all_goals rfl

/-- Settles O25. -/
theorem keypadIsReadByKeySkipsOnly : Obligations.KeypadIsReadByKeySkipsOnly := by
  intro s t k h hskp hsknp
  obtain ⟨kind, info, rfl, hstep⟩ | ⟨rfl, hstep⟩ := step_of_agree (s' := s.setKeys k) h rfl rfl rfl rfl rfl rfl
  · exact hstep
  · refine hstep.trans (congrArg Host.Outcome.next ?_)
    exact congrArg State.stepTimers (completed_setKeys hskp hsknp s.clearChanged k)

/-- Only RND reads and counts the free bytes (R44, D10). -/
theorem completed_setDraws {i : Instr} (hrnd : ∀ x kk, i ≠ .rnd x kk) (s : State) (d : Nat) :
    completed i (s.setDraws d) = (completed i s).setDraws d := by
  cases i
  case rnd x kk => exact absurd rfl (hrnd x kk)
  all_goals rfl

/-- Settles O26. -/
theorem freeBytesAreReadByRandomOnly : Obligations.FreeBytesAreReadByRandomOnly := by
  intro s t d h hrnd
  obtain ⟨kind, info, rfl, hstep⟩ | ⟨rfl, hstep⟩ := step_of_agree (s' := s.setDraws d) h rfl rfl rfl rfl rfl rfl
  · exact hstep
  · refine hstep.trans (congrArg Host.Outcome.next ?_)
    exact congrArg State.stepTimers (completed_setDraws hrnd s.clearChanged d)

/-! ### The jump to self -/

/-- Family 1 is JP nnn (R93). -/
theorem decode_eq_jp {w : Word} (hop : w.toNat / 4096 = 0x1) : decode w = .jp (nnnField w) := by
  simp [decode, toNat_opField, hop]

/-- The word `0x1000 + a` of a 12-bit address is the jump to it (R142). -/
theorem decode_jump_word {a : Word} (ha : a.toNat ≤ 4094) : ∃ nnn, decode (0x1000 + a) = .jp nnn ∧ immAddr nnn = a := by
  have hword : (0x1000 + a : Word).toNat = 4096 + a.toNat := by
    rw [BitVec.toNat_add]
    simp only [BitVec.ofNat_eq_ofNat, BitVec.toNat_ofNat]
    omega
  refine ⟨nnnField (0x1000 + a), decode_eq_jp (by omega), BitVec.eq_of_toNat_eq ?_⟩
  rw [toNat_immAddr, toNat_nnnField]
  omega

/-- Settles O27: the jump writes into `pc` what it holds. -/
theorem jumpToSelfStays : Obligations.JumpToSelfStays := by
  rintro s ⟨hs, hpc, hword⟩
  obtain ⟨nnn, hdecode, haddr⟩ := decode_jump_word hpc
  have hjump : exec (decode s.fetchWord) s.clearChanged = .next s.clearChanged := by
    rw [show s.fetchWord = 0x1000 + s.pc from hword, hdecode, exec, execJp, haddr]
    rfl
  exact ⟨_, step_eq_stepTimers hs hpc hjump hs, ⟨hs, hpc, hword⟩, rfl⟩

end Sys2Proof.Machine
end

section
/-! PROOFS. Display (44_display.md): which pixels a sprite flips, what DRW reports, and that the screen has no influence on
anything else. -/

namespace Sys2Proof.Machine

/-! ### Where a sprite has a 1 -/

/-- Whether a sprite of `n` rows drawn from column `x0` and row `y0` has a 1 at a pixel (R172, R173). -/
def State.spriteLands (s : State) (x0 y0 n : Nat) (y : Fin 32) (x : Fin 64) : Bool :=
  (List.range n).any fun r => decide (wrapRow y0 r = y) && spriteHits (s.spriteByte r) x0 x

theorem State.spriteLands_iff (s : State) (x0 y0 n : Nat) (y : Fin 32) (x : Fin 64) :
    s.spriteLands x0 y0 n y x = true ↔
      ∃ r c, r < n ∧ c < 8 ∧ wrapRow y0 r = y ∧ wrapColumn x0 c = x ∧ spriteBit (s.spriteByte r) c = true := by
  simp only [State.spriteLands, spriteHits, List.any_eq_true, List.mem_range, Bool.and_eq_true, decide_eq_true_eq]
  constructor
  · rintro ⟨r, hr, hy, c, hc, hx, hbit⟩
    exact ⟨r, c, hr, hc, hy, hx, hbit⟩
  · rintro ⟨r, c, hr, hc, hy, hx, hbit⟩
    exact ⟨r, hr, hy, c, hc, hx, hbit⟩

/-- Fewer than 32 rows land on different rows of the screen. -/
theorem wrapRow_injective {y0 r r' : Nat} (hr : r < 16) (hr' : r' < 16) (h : wrapRow y0 r = wrapRow y0 r') : r = r' := by
  have := congrArg Fin.val h
  simp only [val_wrapRow] at this
  omega

/-- Eight columns land on different columns of the screen. -/
theorem wrapColumn_injective {x0 c c' : Nat} (hc : c < 8) (hc' : c' < 8) (h : wrapColumn x0 c = wrapColumn x0 c') :
    c = c' := by
  have := congrArg Fin.val h
  simp only [val_wrapColumn] at this
  omega

/-- At the pixel of row `r` and column offset `c` a sprite has the bit of that row and column: no other of its bits lands
there. -/
theorem State.spriteLands_target (s : State) (x0 y0 : Nat) {n r c : Nat} (hn : n < 16) (hr : r < n) (hc : c < 8) :
    s.spriteLands x0 y0 n (wrapRow y0 r) (wrapColumn x0 c) = spriteBit (s.spriteByte r) c := by
  rw [Bool.eq_iff_iff, State.spriteLands_iff]
  constructor
  · rintro ⟨r', c', hr', hc', hy, hx, hbit⟩
    obtain rfl := wrapRow_injective (hr'.trans hn) (hr.trans hn) hy
    obtain rfl := wrapColumn_injective hc' hc hx
    exact hbit
  · exact fun hbit => ⟨r, c, hr, hc, rfl, rfl, hbit⟩

/-- A byte is not 0 exactly when one of its bits is 1. -/
theorem ne_zero_iff_spriteBit : ∀ b : Byte, b ≠ 0 ↔ ∃ c < 8, spriteBit b c = true := by decide

/-- The rows drawn report a change exactly when the sprite has a 1 somewhere. -/
theorem flag_drawRows_iff_spriteLands (s : State) (x0 y0 n : Nat) :
    (drawRows s x0 y0 n).2 = true ↔ ∃ y x, s.spriteLands x0 y0 n y x = true := by
  rw [flag_drawRows]
  constructor
  · rintro ⟨r, hr, hbyte⟩
    obtain ⟨c, hc, hbit⟩ := (ne_zero_iff_spriteBit _).1 hbyte
    exact ⟨_, _, (s.spriteLands_iff ..).2 ⟨r, c, hr, hc, rfl, rfl, hbit⟩⟩
  · rintro ⟨y, x, hlands⟩
    obtain ⟨r, c, hr, hc, -, -, hbit⟩ := (s.spriteLands_iff ..).1 hlands
    exact ⟨r, hr, (ne_zero_iff_spriteBit _).2 ⟨c, hc, hbit⟩⟩

/-! ### A draw that completes -/

/-- A draw whose sprite is in memory, or has no row, completes (R171, D5, D8). -/
theorem exec_drw_of_inRange (x y : Reg) {n : Nibble} {s : State} (h : n.toNat = 0 ∨ s.index.toNat + n.toNat - 1 ≤ 4095) :
    exec (.drw x y n) s = .next (completed (.drw x y n) s) := by
  apply exec_of_faultOf_eq_none
  have hrange : s.spriteOutOfRange n ≠ true := by
    rw [Ne, State.spriteOutOfRange_iff]
    omega
  rw [faultOf, if_neg hrange]

section
variable (x y : Reg) (n : Nibble) (s : State)

/-- A draw XORs the sprite into the screen. -/
theorem pixel_completed_drw (yy : Fin 32) (xx : Fin 64) : (completed (.drw x y n) s).pixel yy xx =
    Bool.xor (s.pixel yy xx) (s.spriteLands (s.originX x) (s.originY y) n.toNat yy xx) :=
  pixel_drawRows s _ _ _ n.isLt yy xx

theorem changed_completed_drw :
    (completed (.drw x y n) s).changed = (drawRows s (s.originX x) (s.originY y) n.toNat).2 := rfl

/-- VF repeats `changed` as a byte (R174, D19). -/
theorem readV_completed_drw :
    (completed (.drw x y n) s).readV 15 = flagByte (completed (.drw x y n) s).changed :=
  State.readV_setV_same _ 15 _

/-- A draw reports a change exactly when it flipped a pixel (R174). -/
theorem changed_completed_drw_iff :
    (completed (.drw x y n) s).changed = true ↔ ∃ yy xx, (completed (.drw x y n) s).pixel yy xx ≠ s.pixel yy xx := by
  have hflip : ∀ old bit : Bool, Bool.xor old bit ≠ old ↔ bit = true := by decide
  simp only [changed_completed_drw, flag_drawRows_iff_spriteLands, pixel_completed_drw, hflip]

end

/-- Settles O45: a target pixel is XORed with the one sprite bit that lands on it, and on any other pixel none lands. -/
theorem drawXorsTheSpriteWithWrapAround : Obligations.DrawXorsTheSpriteWithWrapAround := by
  intro x y n s hrange
  refine ⟨_, exec_drw_of_inRange x y hrange, ?_, ?_, fun r hr => ?_, rfl⟩
  · intro r c yy xx hr hc hyy hxx
    obtain rfl : yy = wrapRow (s.originY y) r := Fin.ext hyy
    obtain rfl : xx = wrapColumn (s.originX x) c := Fin.ext hxx
    rw [pixel_completed_drw, s.spriteLands_target _ _ n.isLt hr hc]
    rfl
  · intro yy xx hout
    have hmiss : s.spriteLands (s.originX x) (s.originY y) n.toNat yy xx = false := by
      rw [← Bool.not_eq_true, State.spriteLands_iff]
      rintro ⟨r, c, hr, hc, hy, hx, -⟩
      exact hout r c hr hc ⟨congrArg Fin.val hy.symm, congrArg Fin.val hx.symm⟩
    rw [pixel_completed_drw, hmiss, Bool.xor_false]
  · exact State.readV_setV_of_ne _ hr _

/-- Settles O46: the sprite bytes decide, as a sprite bit of 1 flips its pixel whatever was there. -/
theorem drawReportsChangeInVfAndChanged : Obligations.DrawReportsChangeInVfAndChanged := by
  intro x y n s hrange
  exact ⟨_, exec_drw_of_inRange x y hrange, flag_drawRows s _ _ _, changed_completed_drw_iff x y n s,
    readV_completed_drw x y n s⟩

/-- A second draw from the same registers, other than VF, has its sprite at the same place and in the same memory. -/
theorem spriteLands_completed_drw {x y : Reg} (hx : x ≠ 15) (hy : y ≠ 15) (n : Nibble) (s : State) :
    (completed (.drw x y n) s).spriteLands ((completed (.drw x y n) s).originX x) ((completed (.drw x y n) s).originY y)
      n.toNat = s.spriteLands (s.originX x) (s.originY y) n.toNat := by
  have hregX : (completed (.drw x y n) s).readV x = s.readV x := State.readV_setV_of_ne _ hx _
  have hregY : (completed (.drw x y n) s).readV y = s.readV y := State.readV_setV_of_ne _ hy _
  rw [State.originX, State.originY, hregX, hregY]
  rfl

/-- Settles O47: both draws fault, or both complete; then each pixel is XORed twice with the same bit, and the report, which
the sprite decides, is the same. -/
theorem drawingTwiceRestoresTheScreen : Obligations.DrawingTwiceRestoresTheScreen := by
  intro x y n s t r hx hy hst htr
  obtain ⟨kind, info, hfault, rfl⟩ | ⟨hfault, rfl⟩ := exec_inv hst
  · have hagain : faultOf (.drw x y n) (s.raise kind info) = some (kind, info) := hfault
    rw [exec_of_faultOf_eq_some hagain] at htr
    cases htr
    exact ⟨rfl, rfl, rfl⟩
  · have hagain : faultOf (.drw x y n) (completed (.drw x y n) s) = none := hfault
    rw [exec_of_faultOf_eq_none hagain] at htr
    cases htr
    have hlands := spriteLands_completed_drw hx hy n s
    have hchanged : (completed (.drw x y n) (completed (.drw x y n) s)).changed = (completed (.drw x y n) s).changed := by
      rw [Bool.eq_iff_iff, changed_completed_drw, changed_completed_drw, flag_drawRows_iff_spriteLands,
        flag_drawRows_iff_spriteLands, hlands]
    refine ⟨Framebuffer.ext_pixel fun yy xx => ?_, ?_, hchanged⟩
    · change State.pixel _ yy xx = State.pixel _ yy xx
      rw [pixel_completed_drw, hlands, pixel_completed_drw, Bool.xor_assoc, Bool.xor_self, Bool.xor_false]
    · rw [readV_completed_drw, readV_completed_drw, hchanged]

/-- Settles O44. -/
theorem clearScreenBlanksEveryPixel : Obligations.ClearScreenBlanksEveryPixel :=
  fun _ _ => ⟨_, rfl, pixel_blankScreen, rfl⟩

/-! ### The whole tick -/

/-- Settles O14: a tick clears `changed`, and of all instructions only a draw that completes writes it again. -/
theorem changedMeansADrawFlippedAPixel : Obligations.ChangedMeansADrawFlippedAPixel := by
  intro s t h
  obtain ⟨hs, ⟨kind, info, -, rfl⟩ | ⟨hnone, rfl⟩⟩ := step_inv h
  · simp
  · by_cases hdrw : ∃ x y n, decode s.fetchWord = .drw x y n
    · obtain ⟨x, y, n, hi⟩ := hdrw
      have hreport := changed_completed_drw_iff x y n s.clearChanged
      rw [← hi] at hreport
      exact ⟨fun hc => ⟨⟨x, y, n, hi⟩, tickCompleted_status hs, hreport.1 hc⟩, fun ⟨_, _, hflip⟩ => hreport.2 hflip⟩
    · have hfault := (tickFault_eq_none_iff.1 hnone).2
      have hexec := exec_of_faultOf_eq_none ((faultOf_clearChanged _ s).trans hfault)
      have hcleared : (tickCompleted s).changed = false := (exec_changed hexec).resolve_left hdrw
      exact ⟨fun hc => absurd hc (by rw [hcleared]; decide), fun ⟨hi, _⟩ => absurd hi hdrw⟩

/-- Whether a draw reports a change does not depend on the screen (R174). -/
theorem flag_drawRows_setFb (s : State) (f : Framebuffer) (x0 y0 n : Nat) :
    (drawRows (s.setFb f) x0 y0 n).2 = (drawRows s x0 y0 n).2 := by
  rw [Bool.eq_iff_iff, flag_drawRows, flag_drawRows]
  rfl

/-- An instruction that completes on another screen leaves another screen and the same everything else. -/
theorem completed_setFb (i : Instr) (s : State) (f : Framebuffer) :
    ∃ f', completed i (s.setFb f) = (completed i s).setFb f' := by
  cases i
  case cls u => exact ⟨blankScreen, rfl⟩
  case drw x y n =>
    refine ⟨(drawRows (s.setFb f) (s.originX x) (s.originY y) n.toNat).1, ?_⟩
    rw [completed, effect, flag_drawRows_setFb]
    rfl
  all_goals exact ⟨f, rfl⟩

/-- Settles O24: the clearing of `changed` hides its value, and no instruction lets the screen through to another item. -/
theorem screenDoesNotInfluencePrograms : Obligations.ScreenDoesNotInfluencePrograms := by
  intro s t f b h
  obtain ⟨kind, info, rfl, hstep⟩ | ⟨rfl, hstep⟩ :=
    step_of_agree (s' := (s.setFb f).setChanged b) h rfl rfl rfl rfl rfl rfl
  · exact ⟨f, hstep⟩
  · obtain ⟨f', hf'⟩ := completed_setFb (decode s.fetchWord) s.clearChanged f
    exact ⟨f', hstep.trans (congrArg Host.Outcome.next (congrArg State.stepTimers hf'))⟩

end Sys2Proof.Machine
end

section
/-! PROOFS. The single instructions: control transfer, skips, loads and RND, the faults of operands and the illegal rows
(41_flow.md, 42_skip.md, 43_load_arith.md, 60_exceptions.md R181 to R187). -/

namespace Sys2Proof

/-- LD Vx,Vy is the words of family 8 with low nibble 0 (R97). -/
theorem decode_eq_ldReg_of_mask {w : Word} (h : w &&& 0xF00F#16 = 0x8000#16) :
    decode w = .ldReg (xField w) (yField w) := by
  have hnum := congrArg BitVec.toNat h
  simp only [toNat_maskOpLowNibble, BitVec.toNat_ofNat] at hnum
  have hop : w.toNat / 4096 = 0x8 := by omega
  have hfamily : decode w = decodeFamily8 w := by simp [decode, toNat_opField, hop]
  obtain ⟨-, h8⟩ | ⟨hlow, -⟩ := decodeFamily8_cases w
  · rw [hfamily, h8]
  · omega

/-- The word of an instruction, written from its number. -/
theorem encode_eq_ofNat (i : Instr) : encode i = BitVec.ofNat 16 (encodedNat i) := by
  rw [← toNat_encode, BitVec.ofNat_toNat, BitVec.setWidth_eq]

end Sys2Proof

namespace Sys2Proof.Machine

open Claims (pcAfter keyDown)

/-! ### Control transfer -/

/-- RET on a stack with a top entry completes (R141). -/
theorem exec_ret_of_stack_eq (u : Nibble) {s : State} {below : List Word} {target : Word}
    (h : s.stack = below ++ [target]) : exec (.ret u) s = .next ((s.setStack below).setPc target) := by
  rw [exec_of_faultOf_eq_none (by simp [faultOf, h]), completed, effect, pcAfter, State.popped, h, List.dropLast_concat,
    List.getLastD_concat]

/-- Settles O29. -/
theorem returnPopsIntoPc : Obligations.ReturnPopsIntoPc := fun u _ _ _ h => exec_ret_of_stack_eq u h

/-- Settles O30. -/
theorem jumpSetsPc : Obligations.JumpSetsPc := fun nnn _ => ⟨_, rfl, toNat_immAddr nnn, rfl⟩

/-- Settles O31. -/
theorem callPushesTheReturnAddress : Obligations.CallPushesTheReturnAddress := by
  intro nnn s hroom
  have hfault : faultOf (.call nnn) s = none := by simp [faultOf, State.stackFull, hroom]
  rw [exec_of_faultOf_eq_none hfault]
  rfl

/-- Settles O32: the two outcomes of CALL, and what a full stack is at each kind of depth. -/
theorem callOverflowsExactlyWhenFull : Obligations.CallOverflowsExactlyWhenFull := by
  refine ⟨fun nnn s => ?_, fun _ => rfl, fun k len => beq_iff_eq⟩
  cases hfull : depthReached Config.stackDepth s.stack.length with
  | false => exact callPushesTheReturnAddress nnn s hfull
  | true => exact exec_of_faultOf_eq_some (if_pos hfull)

/-- Settles O33. -/
theorem jumpWithOffsetAddsV0 : Obligations.JumpWithOffsetAddsV0 := fun nnn s => ⟨_, rfl, s.toNat_offsetTarget nnn, rfl⟩

/-- Settles O34: a CALL that completes leaves its return address on top of the stack it found, and RET pops it. -/
theorem returnResumesAfterItsCall : Obligations.ReturnResumesAfterItsCall := by
  intro nnn u s t t' r hcall ht hstack hret
  obtain ⟨kind, info, -, rfl⟩ | ⟨-, rfl⟩ := exec_inv hcall
  · cases ht
  · rw [exec_ret_of_stack_eq u hstack] at hret
    cases hret
    exact ⟨rfl, rfl⟩

/-! ### Skips -/

/-- Settles O35. -/
theorem registerSkipsCompareWithTheImmediate : Obligations.RegisterSkipsCompareWithTheImmediate :=
  fun _ _ _ => ⟨exec_of_faultOf_eq_none rfl, exec_of_faultOf_eq_none rfl⟩

/-- On a register that holds a key number neither key skip faults. -/
theorem faultOf_keySkip_of_le {s : State} {x : Reg} (h : (s.readV x).toNat ≤ 15) :
    faultOf (.skp x) s = none ∧ faultOf (.sknp x) s = none := by
  simp [faultOf, h]

/-- Of a condition and its negation exactly one advances by 4. -/
theorem exactlyOne_skips {P : Prop} [Decidable P] (pc : Word) :
    ((if P then pc + 4 else pc + 2) = pc + 4 ∧ (if ¬P then pc + 4 else pc + 2) = pc + 2) ∨
    ((if P then pc + 4 else pc + 2) = pc + 2 ∧ (if ¬P then pc + 4 else pc + 2) = pc + 4) := by
  by_cases h : P <;> simp [h]

/-- Settles O36: the two of a pair test a condition and its negation. -/
theorem exactlyOneOfEachSkipPairSkips : Obligations.ExactlyOneOfEachSkipPairSkips := by
  intro x kk s a b c d ha hb hc hd
  rw [exec_of_faultOf_eq_none rfl] at ha hb
  cases ha
  cases hb
  refine ⟨exactlyOne_skips s.pc, fun hkey => ?_⟩
  obtain ⟨hskp, hsknp⟩ := faultOf_keySkip_of_le hkey
  rw [exec_of_faultOf_eq_none hskp] at hc
  rw [exec_of_faultOf_eq_none hsknp] at hd
  cases hc
  cases hd
  have := exactlyOne_skips (P := keyDown s (s.readV x).toNat = true) s.pc
  simpa only [completed_pc, pcAfter, Bool.not_eq_true] using this

/-- Settles O37. -/
theorem keySkipsTestTheNamedKey : Obligations.KeySkipsTestTheNamedKey := by
  intro x k s hkey
  obtain ⟨hskp, hsknp⟩ := faultOf_keySkip_of_le (s := s) (x := x) (by omega)
  have hdown : keyDown s (s.readV x).toNat = s.keys.get k := by rw [hkey, keyDown_of_lt s k.isLt]
  rw [exec_of_faultOf_eq_none hskp, exec_of_faultOf_eq_none hsknp, ← hdown]
  exact ⟨rfl, rfl⟩

/-! ### Faults of operands and illegal words -/

/-- Settles O38: each is the instruction's fault, which is raised before any effect. -/
theorem operandFaultsWriteStatusOnly : Obligations.OperandFaultsWriteStatusOnly := by
  refine ⟨fun x s hkey => ?_, fun u s hempty => ?_, fun x y n s hrow hlast => ?_⟩
  · exact ⟨exec_of_faultOf_eq_some (if_pos hkey), exec_of_faultOf_eq_some (if_pos hkey)⟩
  · exact exec_of_faultOf_eq_some (if_pos hempty)
  · exact exec_of_faultOf_eq_some (if_pos ((s.spriteOutOfRange_iff n).2 ⟨hrow, hlast⟩))

/-- Settles O48: an illegal row raises the fault with its word, here read as a number. -/
theorem illegalRowsRaiseInvalidOpcode : Obligations.IllegalRowsRaiseInvalidOpcode := by
  intro u s
  have hrow (i : Instr) (h : i.isLegal = false) :
      exec i s = .next (s.raise .invalidOpcode (BitVec.ofNat 16 (encodedNat i))) := by
    rw [exec_of_illegal h, encode_eq_ofNat]
  exact ⟨hrow _ rfl, hrow _ rfl, hrow _ rfl, hrow _ rfl, hrow _ rfl⟩

/-! ### Loads and RND -/

/-- Settles O41: the masks of the two rows of family 8, and the copy. -/
theorem copyRegisterWritesVx : Obligations.CopyRegisterWritesVx := by
  refine ⟨fun _ => decode_eq_ldReg_of_mask, fun w s hop hlow => ?_, fun x y s => ⟨_, rfl, s.setV_advance_spec x _⟩⟩
  have hillegal := (isLegal_decode_eq_false_iff w).2 (.inr (.inl ⟨hop, hlow⟩))
  refine ⟨_, exec_of_illegal hillegal s, ?_⟩
  rw [State.raise_status, encode_decode]

/-- Settles O42. -/
theorem loadIndexZeroExtends : Obligations.LoadIndexZeroExtends := fun nnn _ => ⟨_, rfl, toNat_immAddr nnn, rfl⟩

/-- Settles O43: what a write of one register gives, and the laws of a mask. -/
theorem randomByteIsMasked : Obligations.RandomByteIsMasked := by
  intro x kk s
  obtain ⟨hbyte, hregs, -⟩ := s.drawn.setV_advance_spec x (s.nextFreeByte &&& kk)
  refine ⟨_, rfl, hbyte, ?_, ?_, hregs, rfl⟩
  · rw [hbyte, BitVec.and_assoc, BitVec.and_not_self]
    exact BitVec.and_zero
  · rintro rfl
    rw [hbyte]
    exact BitVec.and_allOnes

end Sys2Proof.Machine
end

section
/-! PROOFS. The frames of the instructions: each item is unchanged, as the instruction is none of the item's writers. -/

namespace Sys2Proof.Machine

section
variable {i : Instr} {s t : State}

/-- No instruction writes memory, the timers or the keypad, as the frames say it (R31, R32, R42, R65). -/
theorem exec_sameMemory (h : exec i s = .next t) : SameMemory s t ∧ SameTimersAndKeys s t := by
  obtain ⟨hmem, hkeys, hdt, hst⟩ := exec_keeps h
  exact ⟨State.readMem_of_mem hmem, hdt, hst, hkeys⟩

/-- The registers an instruction leaves: all but its destination. -/
theorem exec_sameRegsBut (h : exec i s = .next t) {rs : List Reg} (hrs : ∀ r, destination i = some r → r ∈ rs) :
    SameRegsBut rs s t := fun r hr => (exec_readV h r).resolve_left fun hd => hr (hrs r hd)

/-- An instruction that never raises a fault leaves `status`. -/
theorem exec_status (h : exec i s = .next t) (hfault : faultOf i s = none) : t.status = s.status := by
  rw [exec_of_faultOf_eq_none hfault] at h
  cases h
  exact completed_status i s

/-- An instruction that raises a fault leaves `pc` and the stack, and one that completes leaves `status`. -/
theorem exec_status_or_fault (h : exec i s = .next t) : t.status = s.status ∨
    ((∃ kind info, t.status = .faulted kind info) ∧ t.pc = s.pc ∧ t.stack = s.stack) := by
  obtain hst | ⟨kind, info, rfl⟩ := exec_cases h
  · exact .inl hst
  · exact .inr ⟨⟨kind, info, rfl⟩, rfl, rfl⟩

end

/-- Settles O49: none of the four writes another item or raises a fault, and of them RND alone uses free bytes. -/
theorem frameOfLoadsAndAdd : Obligations.FrameOfLoadsAndAdd := by
  intro x y kk s t i h hi
  obtain ⟨hmem, htimers⟩ := exec_sameMemory h
  have hdest : destination i = some x := by rcases hi with rfl | rfl | rfl | rfl <;> rfl
  have hfault : faultOf i s = none := by rcases hi with rfl | rfl | rfl | rfl <;> rfl
  refine ⟨exec_sameRegsBut h (by simp [hdest]), hmem, State.pixel_of_fb ((exec_fb h).resolve_left ?_), htimers,
    (exec_index h).resolve_left ?_, (exec_stack h).resolve_left ?_, (exec_changed h).resolve_left ?_,
    exec_status h hfault, fun hrnd => (exec_draws h).resolve_left ?_⟩
  case refine_5 =>
    rintro ⟨_, _, rfl⟩
    exact hrnd (by simpa using hi)
  all_goals rcases hi with rfl | rfl | rfl | rfl <;> simp

/-- Settles O50: none of the six has a destination or raises a fault, and of them LD I alone writes I. -/
theorem frameOfJumpsSkipsAndLoadIndex : Obligations.FrameOfJumpsSkipsAndLoadIndex := by
  intro x kk nnn s t i h hi
  obtain ⟨hmem, htimers⟩ := exec_sameMemory h
  have hdest : destination i = none := by rcases hi with rfl | rfl | rfl | rfl | rfl | rfl <;> rfl
  have hfault : faultOf i s = none := by rcases hi with rfl | rfl | rfl | rfl | rfl | rfl <;> rfl
  refine ⟨exec_sameRegsBut h (by simp [hdest]), hmem, State.pixel_of_fb ((exec_fb h).resolve_left ?_), htimers,
    fun hldI => (exec_index h).resolve_left ?_, (exec_stack h).resolve_left ?_, (exec_changed h).resolve_left ?_,
    exec_status h hfault, (exec_draws h).resolve_left ?_⟩
  case refine_2 =>
    rintro ⟨_, rfl⟩
    exact hldI (by simpa using hi)
  all_goals rcases hi with rfl | rfl | rfl | rfl | rfl | rfl <;> simp

/-- Settles O51: none of the nine has a destination or writes the screen, I, `changed` or the free bytes. -/
theorem frameOfCallsKeySkipsAndIllegalWords : Obligations.FrameOfCallsKeySkipsAndIllegalWords := by
  intro x u nnn s t i h hi
  obtain ⟨hmem, htimers⟩ := exec_sameMemory h
  have hdest : destination i = none := by
    rcases hi with rfl | rfl | rfl | rfl | rfl | rfl | rfl | rfl | rfl <;> rfl
  refine ⟨exec_sameRegsBut h (by simp [hdest]), hmem, State.pixel_of_fb ((exec_fb h).resolve_left ?_), htimers,
    (exec_index h).resolve_left ?_, (exec_changed h).resolve_left ?_, (exec_draws h).resolve_left ?_,
    exec_status_or_fault h, fun hstack => ?_⟩
  case refine_5 =>
    obtain ⟨_, rfl⟩ | ⟨_, rfl⟩ := (exec_stack h).resolve_right hstack <;> simpa using hi
  all_goals rcases hi with rfl | rfl | rfl | rfl | rfl | rfl | rfl | rfl | rfl <;> simp

/-- Settles O52: the one destination is VF, of DRW, and the one fault is DRW's. -/
theorem frameOfDisplay : Obligations.FrameOfDisplay := by
  intro x y n u s t i h hi
  obtain ⟨hmem, htimers⟩ := exec_sameMemory h
  have hdest : ∀ r, destination i = some r → r ∈ [15] := by rcases hi with rfl | rfl <;> simp [destination]
  refine ⟨exec_sameRegsBut h hdest, hmem, htimers, (exec_index h).resolve_left ?_, (exec_stack h).resolve_left ?_,
    (exec_draws h).resolve_left ?_, ?_, ?_⟩
  case refine_4 =>
    rintro rfl
    cases h
    exact ⟨rfl, rfl, rfl⟩
  case refine_5 =>
    obtain ⟨kind, info, hfault, rfl⟩ | ⟨-, rfl⟩ := exec_inv h
    · refine .inr ⟨info, ?_⟩
      rcases hi with rfl | rfl
      · cases hfault
      · obtain ⟨-, hkind, -⟩ : _ ∧ FaultKind.spriteRange = kind ∧ _ := by simpa [faultOf] using hfault
        rw [← hkind]
        rfl
    · exact .inl (completed_status i s)
  all_goals rcases hi with rfl | rfl <;> simp

end Sys2Proof.Machine
end

section
/-! PROOFS. Reset, load and the host's writes (70_reset_and_hazards.md R220 to R227, 60_exceptions.md R194 to R201): what reset
leaves in memory, the image a load places, and the first tick after it. -/

namespace Sys2Proof.Machine

/-! ### Reset -/

/-- After reset every address reads as reset leaves it: no cell is listed. -/
@[simp] theorem readMem_hostReset (s : State) (a : Nat) : (hostReset s).readMem a = resetByte a := rfl

/-- The font lies at addresses 0 to 79 (R7). -/
theorem resetByte_font (a : Fin 80) : resetByte a.val = Config.font a := dif_pos a.isLt

/-- Every other address is 0 after reset (R221). -/
theorem resetByte_of_ge {a : Nat} (h : 80 ≤ a) : resetByte a = 0x00 := dif_neg (Nat.not_lt.2 h)

/-- Settles O54: each item has its reset value, from whatever state. -/
theorem resetLeavesEveryItemAsTabled : Obligations.ResetLeavesEveryItemAsTabled := by
  refine ⟨fun s => ⟨rfl, rfl, rfl, rfl, rfl, rfl, rfl, pixel_blankScreen, fun k => ?_, resetByte_font,
    fun a h _ => resetByte_of_ge h, rfl⟩, rfl⟩
  simp [hostReset, State.reset, Vector.get_eq_getElem]

/-! ### Load -/

/-- A load that fits answers Ok and puts the image into the memory reset leaves (R225). -/
theorem load_of_length_le {image : List Byte} (h : image.length ≤ 3584) (s : State) :
    load image s = ((hostReset s).setMem ((hostReset s).mem.writeBytes 512 image), .ok) :=
  if_neg (Nat.not_lt.2 h)

/-- Memory after a load that fits: byte `i` of the image at `512 + i`, every other address as reset leaves it (R226). -/
theorem readMem_load {image : List Byte} (h : image.length ≤ 3584) (s : State) (a : Nat) :
    (load image s).1.readMem a =
      if ha : 512 ≤ a ∧ a < 512 + image.length then image[a - 512]'(by omega) else resetByte a := by
  have hfits : 512 + image.length ≤ Config.memSize := Nat.add_le_add_left h 512
  rw [load_of_length_le h]
  exact Memory.read_writeBytes image 512 (hostReset_inv s).memory hfits a

/-- Byte `i` of the image, or 0 where the image ends, is what address `512 + i` reads as after a load that fits. -/
theorem readMem_load_add {image : List Byte} (h : image.length ≤ 3584) (s : State) (i : Nat) :
    (load image s).1.readMem (512 + i) = image.getD i 0x00 := by
  rw [readMem_load h]
  by_cases hi : i < image.length
  · rw [dif_pos (by omega), List.getD_eq_getElem _ _ hi]
    simp
  · rw [dif_neg (by omega), List.getD_eq_default _ _ (by omega), resetByte_of_ge (by omega)]

/-- Settles O55. -/
theorem loadPlacesTheImage : Obligations.LoadPlacesTheImage := by
  intro image s h
  refine ⟨(load image s).1, by rw [load_of_length_le h], fun i hi => ?_, fun a ha => ?_, by rw [load_of_length_le h]; rfl⟩
  · rw [readMem_load_add h, List.getD_eq_getElem _ _ hi]
  · rw [readMem_load h, dif_neg (by omega), readMem_hostReset]

/-- Settles O56. -/
theorem loadOfTooLargeAnImageChangesNothing : Obligations.LoadOfTooLargeAnImageChangesNothing := fun _ _ h => if_pos h

/-- After a load that fits the engine runs, at address 512. -/
theorem load_status_pc {image : List Byte} (h : image.length ≤ 3584) (s : State) :
    (load image s).1.status = .running ∧ (load image s).1.pc = 512 := by
  rw [load_of_length_le h]
  exact ⟨rfl, rfl⟩

/-- Settles O57: the word at 512 is the first two bytes of the image. -/
theorem firstTickAfterLoadRunsTheImage : Obligations.FirstTickAfterLoadRunsTheImage := by
  intro image s h
  obtain ⟨hs, hpc⟩ := load_status_pc h s
  have hword : (load image s).1.fetchWord = image.getD 0 0x00 ++ image.getD 1 0x00 := by
    rw [State.fetchWord, hpc, ← readMem_load_add h s 0, ← readMem_load_add h s 1]
    rfl
  rw [step_running hs (by rw [hpc]; decide), hword]
  rfl

/-- Settles O58: the two ways a load can go, and the other operations as they are written. -/
theorem hostWritesAndLeavingTheHaltedState : Obligations.HostWritesAndLeavingTheHaltedState := by
  refine fun s => ⟨fun _ => rfl, fun _ _ => rfl, fun _ => rfl, fun _ => rfl, rfl, fun image => ?_⟩
  obtain ⟨-, e⟩ | ⟨-, e⟩ := load_cases image s <;> rw [e]
  · exact .inr ⟨rfl, rfl⟩
  · exact .inl ⟨rfl, rfl⟩

end Sys2Proof.Machine
end
